-- ==== Sys2Proof/Word.lean ====
section
/-! DEFINITION. The words of the block: every value is an unsigned bit vector of a fixed width
(spec/00_scope.md R9, R10). -/

namespace Sys2Proof

/-- The transport unit, "an 8-bit value" (00_scope R14). -/
abbrev Byte := BitVec 8

/-- A command word of `CMD_W` = 16 bits (00_scope R9, 30_encoding R60). -/
abbrev CmdWord := BitVec 16

/-- The 16-bit length field and `dec_remain` (10_state R17, R18). -/
abbrev Len := BitVec 16

/-- The running bytesum of `SUM_W` = 24 bits and the 24-bit response value (00_scope R9). -/
abbrev Word24 := BitVec 24

/-- A 4-bit field: `err`, the mask of ERRCLR, a status code, an opcode. -/
abbrev Nibble := BitVec 4

end Sys2Proof
end

