-- ==== Sys2Proof/Syntax.lean ====
section
/-! DEFINITION. The 14 commands, one constructor per row of spec/opcode_table.json (spec/30_encoding.md R61, R63). An
illegal word is no command: the step executes it as spec/45_control.md R117. -/

namespace Sys2Proof

/-- A command with its operand as the encoding carries it (30_encoding R61, R62). -/
inductive Instr where
  /-- One wire byte into the RX path (44_manager R108). -/
  | rxb (d : Byte)
  /-- End of an inbound input sequence (44_manager R109). -/
  | rxend
  /-- Discard the RX path's partial state (44_manager R110). -/
  | rxrst
  /-- One unescaped byte straight into the decoder (41_decoder R86). -/
  | dfeed (d : Byte)
  /-- Append a payload byte to the TX buffer (42_encoder R90). -/
  | txb (d : Byte)
  /-- Encode, escape and send the TX buffer (42_encoder R91). -/
  | txsend
  /-- Discard the TX buffer (42_encoder R92). -/
  | txclr
  /-- Escape one byte, standalone (43_escape R101). -/
  | escb (d : Byte)
  /-- End a standalone escape sequence (43_escape R102). -/
  | escend
  /-- Unescape one byte, standalone (43_escape R103). -/
  | unescb (d : Byte)
  /-- End a standalone unescape sequence (43_escape R104). -/
  | unescend
  /-- Read register `r` (45_control R114); well-formed for `r ≤ 5`. -/
  | rdreg (r : Byte)
  /-- Clear the error flags that mask `m` selects (45_control R115). -/
  | errclr (m : Nibble)
  /-- Soft reset of the whole block (45_control R116). -/
  | srst
  deriving DecidableEq, Repr

end Sys2Proof
end

