-- ==== Sys2Proof/WellFormed.lean ====
section
/-! DEFINITION. Which commands have an encoding: every operand fits its field by type, and RDREG takes only the register
numbers 0 to 5 (spec/30_encoding.md R61). -/

namespace Sys2Proof

/-- The legal operands of each format: any data byte, any mask, a register number of at most 5 (30_encoding R61). -/
def Instr.wellFormed : Instr → Bool
  | .rxb _ => true
  | .rxend => true
  | .rxrst => true
  | .dfeed _ => true
  | .txb _ => true
  | .txsend => true
  | .txclr => true
  | .escb _ => true
  | .escend => true
  | .unescb _ => true
  | .unescend => true
  | .rdreg r => decide (r.toNat ≤ 5)
  | .errclr _ => true
  | .srst => true

/-- The command has an encoding. -/
abbrev Instr.WellFormed (i : Instr) : Prop := i.wellFormed = true

end Sys2Proof
end

