-- ==== Sys2Proof/Decode.lean ====
section
/-! DEFINITION. The command word: its fields, the decoder (spec/30_encoding.md R60–R65) and, after it, the encoder
written from the word patterns of R63. A word is taken whole, so no byte order enters (spec/20_memory.md R46, log entry 8). -/

namespace Sys2Proof

/-- `op = w[15:12]` (30_encoding R60). -/
def opField (w : CmdWord) : Nibble := w.extractLsb' 12 4

/-- `z = w[11:8]`, reserved, must be 0 (30_encoding R60). -/
def zField (w : CmdWord) : Nibble := w.extractLsb' 8 4

/-- `a = w[7:0]`, the operand (30_encoding R60). -/
def aField (w : CmdWord) : Byte := w.extractLsb' 0 8

/-- Why a word is illegal (30_encoding R64). Every reason has the one effect of 45_control R117. -/
inductive DecodeError where
  /-- `op = 0x0` or `op = 0xF`. -/
  | reservedOpcode
  /-- `w[11:8] ≠ 0`. -/
  | reservedField
  /-- A CMD-N word with `w[7:0] ≠ 0`. -/
  | operandNotZero
  /-- A CMD-R word with `w[7:0] > 5`. -/
  | registerNumber
  /-- A CMD-M word with `w[7:4] ≠ 0`. -/
  | maskReserved
  deriving DecidableEq, Repr

/-- A CMD-N word: legal for a zero operand only (30_encoding R61). -/
def decodeNoOperand (a : Byte) (i : Instr) : Except DecodeError Instr :=
  if a = 0#8 then .ok i else .error .operandNotZero

/-- The opcode map for a word whose `z` is 0 (30_encoding R65). -/
def decodeOp (op : Nibble) (a : Byte) : Except DecodeError Instr :=
  match op.toNat with
  | 0x1 => .ok (.rxb a)
  | 0x2 => decodeNoOperand a .rxend
  | 0x3 => decodeNoOperand a .rxrst
  | 0x4 => .ok (.dfeed a)
  | 0x5 => .ok (.txb a)
  | 0x6 => decodeNoOperand a .txsend
  | 0x7 => decodeNoOperand a .txclr
  | 0x8 => .ok (.escb a)
  | 0x9 => decodeNoOperand a .escend
  | 0xA => .ok (.unescb a)
  | 0xB => decodeNoOperand a .unescend
  | 0xC => if a.toNat ≤ 5 then .ok (.rdreg a) else .error .registerNumber
  | 0xD => if a.extractLsb' 4 4 = 0#4 then .ok (.errclr (a.extractLsb' 0 4)) else .error .maskReserved
  | 0xE => decodeNoOperand a .srst
  | _ => .error .reservedOpcode

/-- `Decode(w)`, total on all 65536 words (30_encoding R65). -/
def decode (w : CmdWord) : Except DecodeError Instr :=
  if zField w = 0#4 then decodeOp (opField w) (aField w) else .error .reservedField

/-- A word from its opcode and operand, with `z = 0` (30_encoding R60). -/
def commandWord (op : Nibble) (a : Byte) : CmdWord := op ++ 0#4 ++ a

/-- The word of a command, from the word patterns of 30_encoding R63. -/
def encode : Instr → CmdWord
  | .rxb d => commandWord 0x1#4 d
  | .rxend => commandWord 0x2#4 0#8
  | .rxrst => commandWord 0x3#4 0#8
  | .dfeed d => commandWord 0x4#4 d
  | .txb d => commandWord 0x5#4 d
  | .txsend => commandWord 0x6#4 0#8
  | .txclr => commandWord 0x7#4 0#8
  | .escb d => commandWord 0x8#4 d
  | .escend => commandWord 0x9#4 0#8
  | .unescb d => commandWord 0xA#4 d
  | .unescend => commandWord 0xB#4 0#8
  | .rdreg r => commandWord 0xC#4 r
  | .errclr m => commandWord 0xD#4 (m.setWidth 8)
  | .srst => commandWord 0xE#4 0#8

/-- The command the decoder reads from a word numbered as spec/opcode_table.json numbers it: bit 0 is `w[0]`; every
command is one 16-bit word (30_encoding R67), so a wider word is no command. -/
def decodeTableWord (nbits w : Nat) : Option Instr :=
  if nbits ≤ 16 ∧ w < 2 ^ nbits then
    match decode (BitVec.ofNat 16 w) with
    | .ok i => some i
    | .error _ => none
  else none

end Sys2Proof
end

