-- ==== Sys2Proof/Config.lean ====
section
/-! DEFINITION. What is fixed in this hardware: the framing constants (spec/00_scope.md R6), the capacities (R9) and the
escape policy (R7) with the constraints an admitted policy meets (R8). The spec leaves no result and no register
value open, so there is no free value here. -/

namespace Sys2Proof

namespace Config

/-- `DELIM`, the start delimiter (00_scope R6). -/
def delim : Byte := 0x7E#8

/-- `MAX_LEN`, the longest payload (00_scope R6). -/
def maxLen : Nat := 65535

/-- `RXBUF_CAP`, the capacity of `dec_buf` (00_scope R9, 10_state R20). -/
def rxBufCap : Nat := 65535

/-- `TXBUF_CAP`, the capacity of `tx_buf` (00_scope R9, 10_state R25). -/
def txBufCap : Nat := 65535

end Config

/-- The fields of `POLICY = (MARKER, MASK, RESERVED)` as they are offered (00_scope R7). No function of the block takes them:
they must be built into a `Policy` first. -/
structure PolicyFields where
  marker : Byte
  mask : Byte
  reserved : List Byte
  deriving DecidableEq, Repr

/-- The three constraints of 00_scope R8 (a), (b), (c). -/
abbrev PolicyFields.Admitted (f : PolicyFields) : Prop :=
  f.marker ∈ f.reserved ∧ Config.delim ∈ f.reserved ∧ ∀ r ∈ f.reserved, r ^^^ f.mask ≠ Config.delim

/-- A policy: fields together with the proof that R8 admits them. Every escaping function takes one of these, so no other
policy has a meaning (00_scope R8, 93_implementation_defined I-5; log entry 7). -/
structure Policy extends PolicyFields where
  admitted : toPolicyFields.Admitted
  deriving DecidableEq, Repr

/-- Why fields are refused as a policy: the first constraint of 00_scope R8 they break. -/
inductive PolicyRefusal where
  /-- (a) fails: `MARKER ∉ RESERVED`. -/
  | markerNotReserved
  /-- (b) fails: `DELIM ∉ RESERVED`. -/
  | delimNotReserved
  /-- (c) fails: some reserved `r` has `r ^ MASK = DELIM`. -/
  | escapedByteIsDelim
  deriving DecidableEq, Repr

/-- Build a policy, refusing by name every one that R8 does not admit (00_scope R8, 93_implementation_defined I-5). -/
def Policy.build (f : PolicyFields) : Except PolicyRefusal Policy :=
  if ha : f.marker ∈ f.reserved then
    if hb : Config.delim ∈ f.reserved then
      if hc : ∀ r ∈ f.reserved, r ^^^ f.mask ≠ Config.delim then
        .ok { toPolicyFields := f, admitted := ⟨ha, hb, hc⟩ }
      else .error .escapedByteIsDelim
    else .error .delimNotReserved
  else .error .markerNotReserved

/-- The source's default policy (00_scope R7). -/
def Config.policyFields : PolicyFields :=
  { marker := 0x7D#8, mask := 0x20#8, reserved := [0x11#8, 0x13#8, 0x7D#8, 0x7E#8] }

/-- The policy this block is built with: the default, which meets all three constraints (00_scope R7, R8). -/
def Config.policy : Policy := { toPolicyFields := Config.policyFields, admitted := by decide }

end Sys2Proof
end

