-- ==== Sys2Proof/Machine/State.lean ====
section
/-! DEFINITION. The machine's state: the thirteen elements of spec/10_state.md R15, the input offered to the block and
the log of what it has emitted, all plain data; the state after reset (R39); and the reasons a step can stop (there is no
fault: spec/60_exceptions.md R122). -/

namespace Sys2Proof.Machine

/-- `dec_mode`: five of the eight values of three bits; 5, 6 and 7 are never held (10_state R16). -/
inductive DecMode where
  | seekingDelimiter
  | readingLengthMsb
  | readingLengthLsb
  | readingPayload
  | readingChecksum
  deriving DecidableEq, Repr

/-- The `dec_*` elements (10_state R16–R20). -/
structure DecState where
  mode : DecMode
  len : Len
  remain : Len
  sum : Word24
  buf : List Byte
  deriving DecidableEq, Repr

/-- An unescaper's first-byte flag and pending flag: `rxu_*` or `xu_*` (10_state R22, R23). -/
structure UnescState where
  first : Bool
  pend : Bool
  deriving DecidableEq, Repr

/-- The transmit path: `tx_buf` and `tx_poison` (10_state R25, R26). -/
structure TxState where
  buf : List Byte
  poison : Bool
  deriving DecidableEq, Repr

/-- The frame record the decoder yields (41_decoder R73). -/
structure Frame where
  length : Len
  contents : List Byte
  bytesum : Word24
  checksum : Byte
  deriving DecidableEq, Repr

/-- The four status codes a response can carry; 4 to 15 are never produced (10_state R30). -/
inductive Status where
  | ok
  | illegalCommand
  | preconditionViolation
  | escapeDesync
  deriving DecidableEq, Repr

/-- One response: a status and a 24-bit value (10_state R30). -/
structure Response where
  status : Status
  value : Word24
  deriving DecidableEq, Repr

/-- A record of the RX event channel (10_state R31). -/
inductive RxEvent where
  /-- The payload of an accepted frame. -/
  | accept (contents : List Byte)
  /-- The raw fields of a rejected frame. -/
  | mismatch (length : Len) (contents : List Byte) (bytesum : Word24) (checksum : Byte)
  /-- The RX path's ESCAPE_DESYNC. -/
  | desync
  deriving DecidableEq, Repr

/-- A record of the transmit channel: a byte, and whether it is the final one of its escaped frame (10_state R32). -/
structure TxByte where
  last : Bool
  data : Byte
  deriving DecidableEq, Repr

/-- A record on one of the four output channels (10_state R30–R33). -/
inductive Output where
  | resp (r : Response)
  | rxev (e : RxEvent)
  | txout (t : TxByte)
  | xout (b : Byte)
  deriving DecidableEq, Repr

/-- What the host puts to the block between two steps: a command word on CMD (10_state R29), or a pulse of `rst`,
asserted and released (10_state R35). DESIGN CHOICE: one ordered list of both (log entries 1 and 3). -/
inductive HostInput where
  | command (w : CmdWord)
  | rst
  deriving DecidableEq, Repr

/-- The state of the block (10_state R15), with its input and output channels as data. -/
structure State where
  /-- The frame decoder (R16–R20). -/
  dec : DecState
  /-- The RX-path unescaper (R22). -/
  rxu : UnescState
  /-- The standalone unescaper (R23). -/
  xu : UnescState
  /-- The standalone escaper's first-byte flag (R24). -/
  xeFirst : Bool
  /-- The transmit path (R25, R26). -/
  tx : TxState
  /-- The sticky error flags: bit 0 CSUM, 1 DESYNC, 2 PRECOND, 3 ILLEGAL (R27). -/
  err : BitVec 4
  /-- What the host has offered and the block has not yet taken, oldest first (R29, R35). -/
  input : List HostInput
  /-- Every record emitted so far on every channel, oldest first (R34, 20_memory R52; log entry 4). -/
  out : List Output
  deriving DecidableEq, Repr

/-- Why a step stops with a fault: never. "No error is fatal" (60_exceptions R122) and `Step` is total
(45_control R118), so there is no constructor and nobody raises one (safe; log entry 10). -/
inductive Fault where
  deriving DecidableEq, Repr

/-- Why a step gives an instruction no meaning. -/
inductive Refusal where
  /-- Raised only by an arm of `exec` whose instruction has no meaning yet; no arm is left so (safe: the machine stops). -/
  | notModelled (mnemonic : String)
  deriving DecidableEq, Repr

/-- The decoder's initial state (10_state R39, 41_decoder R75). -/
def DecState.reset : DecState :=
  { mode := .seekingDelimiter, len := 0#16, remain := 0#16, sum := 0#24, buf := [] }

/-- An unescaper at the start of an input sequence (10_state R39). -/
def UnescState.reset : UnescState := { first := true, pend := false }

/-- An empty, unpoisoned transmit path (10_state R39). -/
def TxState.reset : TxState := { buf := [], poison := false }

/-- The machine right after reset: every element as 10_state R39 states it. That no input is offered yet and nothing has
been emitted is the model's convention (log entries 1 and 4). -/
def State.reset : State :=
  { dec := .reset, rxu := .reset, xu := .reset, xeFirst := true, tx := .reset, err := 0#4, input := [], out := [] }

end Sys2Proof.Machine
end

