-- ==== Sys2Proof/Machine/Operands.lean ====
section
/-! DEFINITION. The one operand form that names state: a register number of RDREG, and what each register shows
(spec/10_state.md R36–R38, spec/45_control.md R114). A data byte and a mask are immediate (spec/30_encoding.md R62). -/

namespace Sys2Proof.Machine

/-- The six readable registers (10_state R37, R38). -/
inductive Reg where
  | status
  | dlen
  | dremain
  | dsum
  | txcount
  | err
  deriving DecidableEq, Repr

/-- The register a number names; 6 to 255 name none (10_state R36). -/
def Reg.ofNumber (r : Byte) : Option Reg :=
  match r.toNat with
  | 0 => some .status
  | 1 => some .dlen
  | 2 => some .dremain
  | 3 => some .dsum
  | 4 => some .txcount
  | 5 => some .err
  | _ => none

/-- The numeric value of a decoder mode (10_state R16). -/
def DecMode.code : DecMode → BitVec 3
  | .seekingDelimiter => 0#3
  | .readingLengthMsb => 1#3
  | .readingLengthLsb => 2#3
  | .readingPayload => 3#3
  | .readingChecksum => 4#3

/-- One flag placed at bit `k` of a 24-bit word. -/
def bitAt (k : Nat) (b : Bool) : Word24 := (BitVec.ofBool b).setWidth 24 <<< k

/-- Register 0, `STATUS`; bits 23 to 9 read 0 (10_state R37, 45_control R114). -/
def statusWord (s : State) : Word24 :=
  bitAt 8 s.tx.poison ||| bitAt 7 s.xeFirst ||| bitAt 6 s.xu.first ||| bitAt 5 s.xu.pend |||
    bitAt 4 s.rxu.first ||| bitAt 3 s.rxu.pend ||| s.dec.mode.code.setWidth 24

/-- What a register shows, zero-extended to 24 bits; a read has no side effect (10_state R36–R38). -/
def readReg (r : Reg) (s : State) : Word24 :=
  match r with
  | .status => statusWord s
  | .dlen => s.dec.len.setWidth 24
  | .dremain => s.dec.remain.setWidth 24
  | .dsum => s.dec.sum
  | .txcount => BitVec.ofNat 24 s.tx.buf.length
  | .err => s.err.setWidth 24

end Sys2Proof.Machine
end

