-- ==== Sys2Proof/Machine/Flags.lean ====
section
/-! DEFINITION. The sticky error flags `err` (spec/10_state.md R27): setting one (spec/60_exceptions.md R121) and clearing
those a mask selects (spec/45_control.md R115). -/

namespace Sys2Proof.Machine

/-- The four flags of `err` (10_state R27). -/
inductive ErrFlag where
  | csum
  | desync
  | precond
  | illegal
  deriving DecidableEq, Repr

/-- The bit of `err` a flag stands at (10_state R27). -/
def ErrFlag.bit : ErrFlag → Nat
  | .csum => 0
  | .desync => 1
  | .precond => 2
  | .illegal => 3

/-- `err` with one flag set; a bit already 1 stays 1 and no bit is cleared (60_exceptions R121). -/
def setFlag (f : ErrFlag) (err : BitVec 4) : BitVec 4 := err ||| (1#4 <<< f.bit)

/-- `err & ~m` over 4 bits (45_control R115). -/
def clearFlags (m : Nibble) (err : BitVec 4) : BitVec 4 := err &&& ~~~m

/-- Whether a flag is set in `err` (10_state R27). -/
def hasFlag (f : ErrFlag) (err : BitVec 4) : Bool := err.getLsbD f.bit

end Sys2Proof.Machine
end

