-- ==== Sys2Proof/Machine/Ops.lean ====
section
/-! DEFINITION. The shared operations of the command rules: the pseudocode primitives `Emit`, `Respond` and `Report`
(spec/00_scope.md R12, spec/60_exceptions.md R121), the reset action (spec/70_reset_and_hazards.md R129), what an illegal
word does (spec/45_control.md R117), the channels a consumer sees, and the host's side of the input. The block takes no
exception (R124): `report` stands in that place. -/

namespace Sys2Proof.Machine

/-- `sum(s)`, the exact natural sum of a byte sequence (00_scope R11). -/
def byteSum : List Byte → Nat
  | [] => 0
  | b :: bs => b.toNat + byteSum bs

/-- `n[15:8]` and `n[7:0]`: a 16-bit number most significant byte first (20_memory R43, R44). -/
def bigEndian16 (n : Len) : List Byte := [n.extractLsb' 8 8, n.extractLsb' 0 8]

/-- A 24-bit number most significant byte first (20_memory R44). -/
def bigEndian24 (n : Word24) : List Byte := [n.extractLsb' 16 8, n.extractLsb' 8 8, n.extractLsb' 0 8]

/-! Emitting. -/

/-- `Emit` for a list of records: each is appended to its channel, in order (00_scope R12, 10_state R34). -/
def emit (recs : List Output) (s : State) : State := { s with out := s.out ++ recs }

/-- `Respond(status, value)`: the command's one response, its last output (10_state R30). -/
def respond (st : Status) (value : Word24) (s : State) : State := emit [.resp { status := st, value := value }] s

/-- The response of a command that reports ESCAPE_DESYNC exactly when `ds` (43_escape R103, R104; 44_manager R108, R109). -/
def desyncStatus (ds : Bool) : Status := if ds then .escapeDesync else .ok

/-! Reporting. -/

/-- The reports a command rule can make (60_exceptions R121); STREAM_NOISE is never reported (R120). -/
inductive Report where
  | checksumMismatch (f : Frame)
  | escapeDesyncRx
  | escapeDesyncX
  | preconditionViolation
  | illegalCommand
  deriving DecidableEq, Repr

/-- The RXEV record of a report, if it has one (60_exceptions R121). -/
def Report.records : Report → List Output
  | .checksumMismatch f => [.rxev (.mismatch f.length f.contents f.bytesum f.checksum)]
  | .escapeDesyncRx => [.rxev .desync]
  | .escapeDesyncX => []
  | .preconditionViolation => []
  | .illegalCommand => []

/-- The flag a report sets (60_exceptions R121). -/
def Report.flag : Report → ErrFlag
  | .checksumMismatch _ => .csum
  | .escapeDesyncRx => .desync
  | .escapeDesyncX => .desync
  | .preconditionViolation => .precond
  | .illegalCommand => .illegal

/-- `Report(kind, ...)`: emit the RXEV record, if any, and set the flag (60_exceptions R121). -/
def report (r : Report) (s : State) : State := { emit r.records s with err := setFlag r.flag s.err }

/-- A report made only when its condition holds. -/
def reportIf (c : Bool) (r : Report) (s : State) : State := if c then report r s else s

/-- The effect of an illegal word (45_control R117). -/
def illegalCommand (s : State) : State := respond .illegalCommand 0#24 (report .illegalCommand s)

/-! Reset. -/

/-- `DecReset` (41_decoder R75). -/
def decReset : DecState := DecState.reset

/-- `ResetState`: every element of 10_state R15 to its reset value; what was emitted stays emitted and the input stays
offered (70_reset_and_hazards R129, 45_control R116). -/
def resetState (s : State) : State :=
  { s with dec := decReset, rxu := { first := true, pend := false }, xu := { first := true, pend := false }, xeFirst := true,
           tx := { buf := [], poison := false }, err := 0#4 }

/-! The input: what the host offers and what the step takes. -/

/-- The host offers one more command word (10_state R29). -/
def offer (w : CmdWord) (s : State) : State := { s with input := s.input ++ [.command w] }

/-- The host pulses `rst` after everything offered so far (10_state R35). -/
def offerReset (s : State) : State := { s with input := s.input ++ [.rst] }

/-- The oldest input and the state without it; none while nothing is offered (20_memory R51). -/
def takeInput (s : State) : Option (HostInput × State) :=
  match s.input with
  | [] => none
  | h :: rest => some (h, { s with input := rest })

/-- A word put where the next step takes it: before everything else offered (log entry 9). -/
def putNextWord (w : CmdWord) (s : State) : State := { s with input := .command w :: s.input }

/-! The four channels as their consumers see them (10_state R30–R34). -/

/-- The responses among some records, in order. -/
def respOf : List Output → List Response
  | [] => []
  | .resp r :: os => r :: respOf os
  | .rxev _ :: os => respOf os
  | .txout _ :: os => respOf os
  | .xout _ :: os => respOf os

/-- The RXEV records among some records, in order. -/
def rxevOf : List Output → List RxEvent
  | [] => []
  | .resp _ :: os => rxevOf os
  | .rxev e :: os => e :: rxevOf os
  | .txout _ :: os => rxevOf os
  | .xout _ :: os => rxevOf os

/-- The TXOUT records among some records, in order. -/
def txoutOf : List Output → List TxByte
  | [] => []
  | .resp _ :: os => txoutOf os
  | .rxev _ :: os => txoutOf os
  | .txout t :: os => t :: txoutOf os
  | .xout _ :: os => txoutOf os

/-- The XOUT records among some records, in order. -/
def xoutOf : List Output → List Byte
  | [] => []
  | .resp _ :: os => xoutOf os
  | .rxev _ :: os => xoutOf os
  | .txout _ :: os => xoutOf os
  | .xout b :: os => b :: xoutOf os

/-- Channel RESP (10_state R30). -/
def State.resp (s : State) : List Response := respOf s.out

/-- Channel RXEV (10_state R31). -/
def State.rxev (s : State) : List RxEvent := rxevOf s.out

/-- Channel TXOUT (10_state R32). -/
def State.txout (s : State) : List TxByte := txoutOf s.out

/-- Channel XOUT (10_state R33). -/
def State.xout (s : State) : List Byte := xoutOf s.out

end Sys2Proof.Machine
end

