-- ==== Sys2Proof/Machine/Control.lean ====
section
/-! DEFINITION. The control commands RDREG, ERRCLR and SRST (spec/45_control.md). -/

namespace Sys2Proof.Machine

/-- RDREG (45_control R114). A number above 5 has no encoding of this command: the word that would carry it is illegal and
is executed as 45_control R117 (30_encoding R64; log entry 6). -/
def execRdreg (r : Byte) (s : State) : Host.Outcome State Fault Refusal :=
  match Reg.ofNumber r with
  | some g => .next (respond .ok (readReg g s) s)
  | none => .next (illegalCommand s)

/-- ERRCLR (45_control R115). -/
def execErrclr (m : Nibble) (s : State) : Host.Outcome State Fault Refusal :=
  .next (respond .ok 0#24 { s with err := clearFlags m s.err })

/-- SRST (45_control R116). -/
def execSrst (s : State) : Host.Outcome State Fault Refusal :=
  .next (respond .ok 0#24 (resetState s))

end Sys2Proof.Machine
end

