-- ==== Sys2Proof/Machine/Decoder.lean ====
section
/-! DEFINITION. The frame decoder state machine (spec/41_decoder.md), the checksum validator with the accept/reject policy
(spec/44_manager.md R105, R107) and the command DFEED (R86). -/

namespace Sys2Proof.Machine

/-- In `SEEKING_DELIMITER` (41_decoder R76). -/
def feedSeeking (d : DecState) (b : Byte) : DecState :=
  if b = Config.delim then { decReset with mode := .readingLengthMsb } else d

/-- In `READING_LENGTH_MSB` (41_decoder R77). -/
def feedLengthMsb (d : DecState) (b : Byte) : DecState :=
  { d with len := b.setWidth 16 <<< 8, mode := .readingLengthLsb }

/-- In `READING_LENGTH_LSB`; a zero length skips `READING_PAYLOAD` (41_decoder R78, 90_conflicts C1). -/
def feedLengthLsb (d : DecState) (b : Byte) : DecState :=
  let n := d.len ||| b.setWidth 16
  { d with len := n, remain := n, mode := if n = 0#16 then .readingChecksum else .readingPayload }

/-- In `READING_PAYLOAD` (41_decoder R79). Where R21 holds, the sum does not wrap and `remain` is at least 1; elsewhere both
are arithmetic on their widths (log entry 5). -/
def feedPayload (d : DecState) (b : Byte) : DecState :=
  let r := d.remain - 1#16
  { d with buf := d.buf ++ [b], sum := d.sum + b.setWidth 24, remain := r,
           mode := if r = 0#16 then .readingChecksum else .readingPayload }

/-- `DecFeed(st, b)`: the decoder after one byte, and the frame record that byte completes (41_decoder R74, R80). -/
def decFeed (d : DecState) (b : Byte) : DecState × Option Frame :=
  match d.mode with
  | .seekingDelimiter => (feedSeeking d b, none)
  | .readingLengthMsb => (feedLengthMsb d b, none)
  | .readingLengthLsb => (feedLengthLsb d b, none)
  | .readingPayload => (feedPayload d b, none)
  | .readingChecksum => (decReset, some { length := d.len, contents := d.buf, bytesum := d.sum, checksum := b })

/-- `DecFeed` over a byte sequence: the decoder after it and the frame records, in order (41_decoder R83). -/
def decFeedAll (d : DecState) : List Byte → DecState × List Frame
  | [] => (d, [])
  | b :: bs =>
    let r := decFeed d b
    let rest := decFeedAll r.1 bs
    (rest.1, r.2.toList ++ rest.2)

/-- `Valid(bytesum, checksum)`; `+` is exact (44_manager R105). -/
def valid (bytesum : Word24) (checksum : Byte) : Bool :=
  ((bytesum.toNat &&& 0xFF) + checksum.toNat) &&& 0xFF == 0xFF

/-- `Complete(st, f)`, the accept/reject policy (44_manager R107). -/
def complete (f : Frame) (s : State) : State :=
  if valid f.bytesum f.checksum then emit [.rxev (.accept f.contents)] s else report (.checksumMismatch f) s

/-- Complete the frame, if the byte completed one. -/
def completeAny (f : Option Frame) (s : State) : State :=
  match f with
  | none => s
  | some f => complete f s

/-- One byte into the decoder, and the frame it completes to the validator (41_decoder R86, 44_manager R108). -/
def feedDecoder (b : Byte) (s : State) : State :=
  let r := decFeed s.dec b
  completeAny r.2 { s with dec := r.1 }

/-- DFEED (41_decoder R86). -/
def execDfeed (d : Byte) (s : State) : Host.Outcome State Fault Refusal :=
  .next (respond .ok 0#24 (feedDecoder d s))

end Sys2Proof.Machine
end

