-- ==== Sys2Proof/Machine/Escape.lean ====
section
/-! DEFINITION. Byte escape and unescape (spec/43_escape.md): the reserved-byte lookup, one escaper step, one unescaper
step, the end of a sequence, whole sequences, and the standalone commands ESCB, ESCEND, UNESCB, UNESCEND. The pure
functions take any policy that spec/00_scope.md R8 admits, and no other; the block uses `Config.policy` (R7). -/

namespace Sys2Proof.Machine

/-- `IsReserved(b)` (43_escape R93). -/
def isReserved (p : Policy) (b : Byte) : Bool := p.reserved.contains b

/-- The bytes one escaper step puts out (43_escape R94). -/
def escOut (p : Policy) (first : Bool) (b : Byte) : List Byte :=
  if first then [b] else if isReserved p b then [p.marker, b ^^^ p.mask] else [b]

/-- `EscByte(first, b)`: the new first-byte flag, which is always 0, and the bytes put out (43_escape R94). -/
def escByte (p : Policy) (first : Bool) (b : Byte) : Bool × List Byte := (false, escOut p first b)

/-- `EscByte` folded over a sequence from a given first-byte flag (43_escape R95). -/
def escapeFrom (p : Policy) (first : Bool) : List Byte → List Byte
  | [] => []
  | b :: bs =>
    let r := escByte p first b
    r.2 ++ escapeFrom p r.1 bs

/-- `Escape(B)` (43_escape R95). -/
def escape (p : Policy) (bs : List Byte) : List Byte := escapeFrom p true bs

/-- What one unescaper step gives: the new flags, the byte passed on, and whether ESCAPE_DESYNC is reported. -/
structure UnescResult where
  next : UnescState
  out : Option Byte
  desync : Bool
  deriving DecidableEq, Repr

/-- `UnescStep(first, pend, b)` (43_escape R96). -/
def unescStep (p : Policy) (u : UnescState) (b : Byte) : UnescResult :=
  if u.first then { next := { first := false, pend := false }, out := some b, desync := false }
  else if u.pend then
    if b = Config.delim then { next := { first := false, pend := false }, out := some b, desync := true }
    else { next := { first := false, pend := false }, out := some (b ^^^ p.mask), desync := false }
  else if b = p.marker then { next := { first := false, pend := true }, out := none, desync := false }
  else { next := { first := false, pend := false }, out := some b, desync := false }

/-- The flags `UnescEnd` leaves: the next byte is again a first byte (43_escape R97). -/
def unescEndState : UnescState := { first := true, pend := false }

/-- `UnescEnd(first, pend)`: the new flags, and ESCAPE_DESYNC when a marker is pending (43_escape R97). -/
def unescEnd (u : UnescState) : UnescState × Bool := (unescEndState, u.pend)

/-- 1 for a desync, else 0: the count of 43_escape R98. -/
def desyncCount (ds : Bool) : Nat := if ds then 1 else 0

/-- `UnescStep` folded over a sequence from given flags, then `UnescEnd` (43_escape R98). -/
def unescapeFrom (p : Policy) (u : UnescState) : List Byte → List Byte × Nat
  | [] => ([], desyncCount (unescEnd u).2)
  | b :: bs =>
    let r := unescStep p u b
    let rest := unescapeFrom p r.next bs
    (r.out.toList ++ rest.1, desyncCount r.desync + rest.2)

/-- `Unescape(E)`: the bytes and the number of desyncs (43_escape R98). -/
def unescape (p : Policy) (es : List Byte) : List Byte × Nat := unescapeFrom p { first := true, pend := false } es

/-! The standalone transform commands. -/

/-- ESCB (43_escape R101). -/
def execEscb (d : Byte) (s : State) : Host.Outcome State Fault Refusal :=
  let r := escByte Config.policy s.xeFirst d
  .next (respond .ok 0#24 (emit (r.2.map .xout) { s with xeFirst := r.1 }))

/-- ESCEND (43_escape R102). -/
def execEscend (s : State) : Host.Outcome State Fault Refusal :=
  .next (respond .ok 0#24 { s with xeFirst := true })

/-- UNESCB (43_escape R103). -/
def execUnescb (d : Byte) (s : State) : Host.Outcome State Fault Refusal :=
  let r := unescStep Config.policy s.xu d
  .next (respond (desyncStatus r.desync) 0#24
    (emit (r.out.toList.map .xout) (reportIf r.desync .escapeDesyncX { s with xu := r.next })))

/-- UNESCEND (43_escape R104). -/
def execUnescend (s : State) : Host.Outcome State Fault Refusal :=
  let r := unescEnd s.xu
  .next (respond (desyncStatus r.2) 0#24 (reportIf r.2 .escapeDesyncX { s with xu := r.1 }))

end Sys2Proof.Machine
end

