-- ==== Sys2Proof/Machine/RxPath.lean ====
section
/-! DEFINITION. The inbound pipeline, unescape then decode then validate (spec/44_manager.md): RXB, RXEND, RXRST. -/

namespace Sys2Proof.Machine

/-- The byte the unescaper passed on, if any, into the decoder (44_manager R108). -/
def feedDecoderAny (o : Option Byte) (s : State) : State :=
  match o with
  | none => s
  | some e => feedDecoder e s

/-- RXB (44_manager R108): the DESYNC record, if any, comes before the frame record (60_exceptions R123). -/
def execRxb (d : Byte) (s : State) : Host.Outcome State Fault Refusal :=
  let r := unescStep Config.policy s.rxu d
  .next (respond (desyncStatus r.desync) 0#24
    (feedDecoderAny r.out (reportIf r.desync .escapeDesyncRx { s with rxu := r.next })))

/-- RXEND (44_manager R109): the decoder is not touched. -/
def execRxend (s : State) : Host.Outcome State Fault Refusal :=
  let r := unescEnd s.rxu
  .next (respond (desyncStatus r.2) 0#24 (reportIf r.2 .escapeDesyncRx { s with rxu := r.1 }))

/-- RXRST (44_manager R110): `err` is not cleared. -/
def execRxrst (s : State) : Host.Outcome State Fault Refusal :=
  .next (respond .ok 0#24 { s with dec := decReset, rxu := { first := true, pend := false } })

end Sys2Proof.Machine
end

