-- ==== Sys2Proof/Machine/TxPath.lean ====
section
/-! DEFINITION. The frame encoder with its checksum generator, and the transmit path (spec/42_encoder.md): TXB, TXSEND,
TXCLR. -/

namespace Sys2Proof.Machine

/-- `CsumGen(P) = 0xFF - (sum(P) & 0xFF)` (42_encoder R87). -/
def csumGen (payload : List Byte) : Byte := BitVec.ofNat 8 (0xFF - (byteSum payload &&& 0xFF))

/-- `Encode(P)`, for a payload of at most 65535 bytes (42_encoder R88, 30_encoding R57). -/
def encodeFrame (payload : List Byte) : List Byte :=
  [Config.delim] ++ bigEndian16 (BitVec.ofNat 16 payload.length) ++ payload ++ [csumGen payload]

/-- The TXOUT records of an escaped frame: `last` on its final byte only (10_state R32, 42_encoder R91). -/
def txRecords : List Byte → List TxByte
  | [] => []
  | [b] => [{ last := true, data := b }]
  | b :: c :: bs => { last := false, data := b } :: txRecords (c :: bs)

/-- TXB (42_encoder R90). -/
def execTxb (d : Byte) (s : State) : Host.Outcome State Fault Refusal :=
  if s.tx.poison then
    .next (respond .preconditionViolation 0#24 (report .preconditionViolation s))
  else if s.tx.buf.length = Config.txBufCap then
    .next (respond .preconditionViolation 0#24
      (report .preconditionViolation { s with tx := { s.tx with poison := true } }))
  else
    .next (respond .ok 0#24 { s with tx := { s.tx with buf := s.tx.buf ++ [d] } })

/-- TXSEND (42_encoder R91): the escape of a frame starts at its own byte 0 and does not use `xe_first`. -/
def execTxsend (s : State) : Host.Outcome State Fault Refusal :=
  if s.tx.poison then
    .next (respond .preconditionViolation 0#24
      (report .preconditionViolation { s with tx := { buf := [], poison := false } }))
  else
    .next (respond .ok 0#24
      { emit ((txRecords (escape Config.policy (encodeFrame s.tx.buf))).map .txout) s with
        tx := { s.tx with buf := [] } })

/-- TXCLR (42_encoder R92): `err` is not cleared. -/
def execTxclr (s : State) : Host.Outcome State Fault Refusal :=
  .next (respond .ok 0#24 { s with tx := { buf := [], poison := false } })

end Sys2Proof.Machine
end

