-- ==== Sys2Proof/Machine/Dispatch.lean ====
section
/-! DEFINITION. One arm per command: `Step`'s case split on a legal word (spec/45_control.md R118). -/

namespace Sys2Proof.Machine

def exec (i : Instr) (s : State) : Host.Outcome State Fault Refusal :=
  match i with
  | .rxb d => Sys2Proof.Machine.execRxb d s
  | .rxend => Sys2Proof.Machine.execRxend s
  | .rxrst => Sys2Proof.Machine.execRxrst s
  | .dfeed d => Sys2Proof.Machine.execDfeed d s
  | .txb d => Sys2Proof.Machine.execTxb d s
  | .txsend => Sys2Proof.Machine.execTxsend s
  | .txclr => Sys2Proof.Machine.execTxclr s
  | .escb d => Sys2Proof.Machine.execEscb d s
  | .escend => Sys2Proof.Machine.execEscend s
  | .unescb d => Sys2Proof.Machine.execUnescb d s
  | .unescend => Sys2Proof.Machine.execUnescend s
  | .rdreg r => Sys2Proof.Machine.execRdreg r s
  | .errclr m => Sys2Proof.Machine.execErrclr m s
  | .srst => Sys2Proof.Machine.execSrst s

end Sys2Proof.Machine
end

