-- ==== Sys2Proof/Machine/Command.lean ====
section
/-! DEFINITION. The block's step for one command word and for one host input (spec/45_control.md R118), and a run over
command words, which Machine/Step.lean calls. -/

namespace Sys2Proof.Machine

/-- `Step(st, w)`: the decoded command's rule, or R117 for an illegal word (45_control R118). -/
def stepWord (w : CmdWord) (s : State) : Host.Outcome State Fault Refusal :=
  match decode w with
  | .ok i => exec i s
  | .error _ => .next (illegalCommand s)

/-- What one input does: a command word is one step, a pulse of `rst` applies `ResetState` at its release and emits nothing
(10_state R35, 70_reset_and_hazards R129). -/
def stepInput (h : HostInput) (s : State) : Host.Outcome State Fault Refusal :=
  match h with
  | .command w => stepWord w s
  | .rst => .next (resetState s)

/-- One step: the oldest input offered is taken and acted on; with none offered the block waits, its state unchanged
(70_reset_and_hazards R130; log entry 2). -/
def stepState (s : State) : Host.Outcome State Fault Refusal :=
  match takeInput s with
  | none => .next s
  | some (h, t) => stepInput h t

/-- A run: the fold of `Step` over command words in arrival order (45_control R118). -/
def runWords : List CmdWord → State → Host.Outcome State Fault Refusal
  | [], s => .next s
  | w :: ws, s =>
    match stepWord w s with
    | .next t => runWords ws t
    | .fault f => .fault f
    | .refused r => .refused r

/-- A run over commands. -/
def runInstrs : List Instr → State → Host.Outcome State Fault Refusal
  | [], s => .next s
  | i :: is, s =>
    match exec i s with
    | .next t => runInstrs is t
    | .fault f => .fault f
    | .refused r => .refused r

end Sys2Proof.Machine
end

