-- ==== Sys2Proof/Machine/Step.lean ====
section
/-! DEFINITION. The step the host runs, and where a test puts its next word. Both only call Machine/Command.lean and
Machine/Ops.lean. -/

namespace Sys2Proof.Machine

/-- One step of the block (spec/45_control.md R118). -/
def step (s : State) : Host.Outcome State Fault Refusal := stepState s

/-- `s` with the low `nbits` bits of `w` offered as a command word before everything else, so that the very next step runs
it (log entry 9). -/
def State.withFetchWord (s : State) (nbits w : Nat) : State := putNextWord (BitVec.ofNat 16 (w % 2 ^ nbits)) s

end Sys2Proof.Machine
end

