-- ==== Sys2Proof/Machine/Assembler.lean ====
section
/-! DEFINITION. The assembler syntax and the pseudo-commands (spec/30_encoding.md R71, R72). Text is a list of characters.
What the spec leaves open about text is log entry 13; no rule of the block rests on this file. -/

namespace Sys2Proof.Machine

/-! Pseudo-commands. -/

/-- The pseudo-commands (30_encoding R72). -/
inductive Pseudo where
  | rxstream (bs : List Byte)
  | dstream (bs : List Byte)
  | send (bs : List Byte)
  | escape (bs : List Byte)
  | unescape (bs : List Byte)
  | clrerr
  | nop
  deriving DecidableEq, Repr

/-- What a pseudo-command expands to (30_encoding R72). -/
def Pseudo.expand : Pseudo → List Instr
  | .rxstream bs => bs.map .rxb
  | .dstream bs => bs.map .dfeed
  | .send bs => bs.map .txb ++ [.txsend]
  | .escape bs => bs.map .escb ++ [.escend]
  | .unescape bs => bs.map .unescb ++ [.unescend]
  | .clrerr => [.errclr 0xF#4]
  | .nop => [.rdreg 0#8]

/-! Numbers. -/

/-- The value of a decimal digit. -/
def decDigit (c : Char) : Option Nat :=
  if '0'.toNat ≤ c.toNat ∧ c.toNat ≤ '9'.toNat then some (c.toNat - '0'.toNat) else none

/-- The value of a hexadecimal digit, in either case. -/
def hexDigit (c : Char) : Option Nat :=
  if 'A'.toNat ≤ c.toNat ∧ c.toNat ≤ 'F'.toNat then some (c.toNat - 'A'.toNat + 10)
  else if 'a'.toNat ≤ c.toNat ∧ c.toNat ≤ 'f'.toNat then some (c.toNat - 'a'.toNat + 10)
  else decDigit c

/-- A run of digits, most significant first, onto a number read so far. -/
def readDigits (base : Nat) (digit : Char → Option Nat) : Nat → List Char → Option Nat
  | acc, [] => some acc
  | acc, c :: cs =>
    match digit c with
    | some v => readDigits base digit (acc * base + v) cs
    | none => none

/-- An operand: a number in decimal or with the prefix `0x` (30_encoding R71). -/
def readNumber : List Char → Option Nat
  | [] => none
  | [c] => readDigits 10 decDigit 0 [c]
  | c :: x :: cs =>
    if c = '0' ∧ x = 'x' then (if cs = [] then none else readDigits 16 hexDigit 0 cs)
    else readDigits 10 decDigit 0 (c :: x :: cs)

/-- A number that is at most `bound`. -/
def readBounded (bound : Nat) (cs : List Char) : Option Nat :=
  match readNumber cs with
  | some n => if n ≤ bound then some n else none
  | none => none

/-- A byte of a pseudo-command: two hexadecimal digits without prefix (30_encoding R72). -/
def readHexByte : List Char → Option Byte
  | [h, l] =>
    match hexDigit h, hexDigit l with
    | some hv, some lv => some (BitVec.ofNat 8 (hv * 16 + lv))
    | _, _ => none
  | _ => none

/-- The bytes of a pseudo-command; the list may be empty (30_encoding R72). -/
def readHexBytes : List (List Char) → Option (List Byte)
  | [] => some []
  | t :: ts =>
    match readHexByte t, readHexBytes ts with
    | some b, some bs => some (b :: bs)
    | _, _ => none

/-- A register operand: its number, or one of the register names (30_encoding R71). -/
def readRegister (cs : List Char) : Option Byte :=
  if cs = ['S', 'T', 'A', 'T', 'U', 'S'] then some 0#8
  else if cs = ['D', 'L', 'E', 'N'] then some 1#8
  else if cs = ['D', 'R', 'E', 'M', 'A', 'I', 'N'] then some 2#8
  else if cs = ['D', 'S', 'U', 'M'] then some 3#8
  else if cs = ['T', 'X', 'C', 'O', 'U', 'N', 'T'] then some 4#8
  else if cs = ['E', 'R', 'R'] then some 5#8
  else (readBounded 5 cs).map (BitVec.ofNat 8)

/-! Mnemonics. -/

/-- The names that can begin a command: the 14 mnemonics of R63 and the 7 pseudo-commands of R72. -/
inductive Mnemonic where
  | rxb | rxend | rxrst | dfeed | txb | txsend | txclr | escb | escend | unescb | unescend | rdreg | errclr | srst
  | rxstream | dstream | send | escape | unescape | clrerr | nop
  deriving DecidableEq, Repr

/-- The name as it is written, upper case (30_encoding R71, R72). -/
def Mnemonic.name : Mnemonic → List Char
  | .rxb => ['R', 'X', 'B']
  | .rxend => ['R', 'X', 'E', 'N', 'D']
  | .rxrst => ['R', 'X', 'R', 'S', 'T']
  | .dfeed => ['D', 'F', 'E', 'E', 'D']
  | .txb => ['T', 'X', 'B']
  | .txsend => ['T', 'X', 'S', 'E', 'N', 'D']
  | .txclr => ['T', 'X', 'C', 'L', 'R']
  | .escb => ['E', 'S', 'C', 'B']
  | .escend => ['E', 'S', 'C', 'E', 'N', 'D']
  | .unescb => ['U', 'N', 'E', 'S', 'C', 'B']
  | .unescend => ['U', 'N', 'E', 'S', 'C', 'E', 'N', 'D']
  | .rdreg => ['R', 'D', 'R', 'E', 'G']
  | .errclr => ['E', 'R', 'R', 'C', 'L', 'R']
  | .srst => ['S', 'R', 'S', 'T']
  | .rxstream => ['R', 'X', 'S', 'T', 'R', 'E', 'A', 'M']
  | .dstream => ['D', 'S', 'T', 'R', 'E', 'A', 'M']
  | .send => ['S', 'E', 'N', 'D']
  | .escape => ['E', 'S', 'C', 'A', 'P', 'E']
  | .unescape => ['U', 'N', 'E', 'S', 'C', 'A', 'P', 'E']
  | .clrerr => ['C', 'L', 'R', 'E', 'R', 'R']
  | .nop => ['N', 'O', 'P']

/-- Every name. -/
def allMnemonics : List Mnemonic :=
  [.rxb, .rxend, .rxrst, .dfeed, .txb, .txsend, .txclr, .escb, .escend, .unescb, .unescend, .rdreg, .errclr, .srst,
    .rxstream, .dstream, .send, .escape, .unescape, .clrerr, .nop]

/-- The mnemonic a word of text is. -/
def readMnemonic (cs : List Char) : Option Mnemonic := allMnemonics.find? (fun m => m.name = cs)

/-- A command of format CMD-D from its operand. -/
def withByte (mk : Byte → Instr) : List (List Char) → Option (List Instr)
  | [a] => (readBounded 255 a).map (fun n => [mk (BitVec.ofNat 8 n)])
  | _ => none

/-- A command of format CMD-N: no operand. -/
def withNone (i : Instr) : List (List Char) → Option (List Instr)
  | [] => some [i]
  | _ => none

/-- RDREG from its operand. -/
def withRegister : List (List Char) → Option (List Instr)
  | [a] => (readRegister a).map (fun r => [.rdreg r])
  | _ => none

/-- ERRCLR from its operand. -/
def withMask : List (List Char) → Option (List Instr)
  | [a] => (readBounded 15 a).map (fun n => [.errclr (BitVec.ofNat 4 n)])
  | _ => none

/-- A pseudo-command from its bytes. -/
def withBytes (mk : List Byte → Pseudo) (args : List (List Char)) : Option (List Instr) :=
  (readHexBytes args).map (fun bs => (mk bs).expand)

/-- The commands one mnemonic and its operands stand for (30_encoding R71, R72). -/
def assembleCommand (m : Mnemonic) (args : List (List Char)) : Option (List Instr) :=
  match m with
  | .rxb => withByte .rxb args
  | .rxend => withNone .rxend args
  | .rxrst => withNone .rxrst args
  | .dfeed => withByte .dfeed args
  | .txb => withByte .txb args
  | .txsend => withNone .txsend args
  | .txclr => withNone .txclr args
  | .escb => withByte .escb args
  | .escend => withNone .escend args
  | .unescb => withByte .unescb args
  | .unescend => withNone .unescend args
  | .rdreg => withRegister args
  | .errclr => withMask args
  | .srst => withNone .srst args
  | .rxstream => withBytes .rxstream args
  | .dstream => withBytes .dstream args
  | .send => withBytes .send args
  | .escape => withBytes .escape args
  | .unescape => withBytes .unescape args
  | .clrerr => if args = [] then some Pseudo.clrerr.expand else none
  | .nop => if args = [] then some Pseudo.nop.expand else none

/-! Lines. -/

/-- Text after `;` is a comment (30_encoding R71). -/
def stripComment : List Char → List Char
  | [] => []
  | c :: cs => if c = ';' then [] else c :: stripComment cs

/-- A space or a tab separates two words of a line. -/
def isBlank (c : Char) : Bool := c = ' ' || c = '\t'

/-- The words of a line; `cur` is the word being read, reversed. -/
def splitWords : List Char → List Char → List (List Char)
  | cur, [] => if cur = [] then [] else [cur.reverse]
  | cur, c :: cs =>
    if isBlank c then
      (if cur = [] then splitWords [] cs else cur.reverse :: splitWords [] cs)
    else splitWords (c :: cur) cs

/-- A command word in four hexadecimal digits (30_encoding R71). -/
def readListingWord : List Char → Option CmdWord
  | [a, b, c, d] => (readDigits 16 hexDigit 0 [a, b, c, d]).map (BitVec.ofNat 16)
  | _ => none

/-- The commands of a line's words after the command word a listing puts first. -/
def assembleWords : List (List Char) → Option (List Instr)
  | [] => some []
  | m :: args =>
    match readMnemonic m with
    | some n => assembleCommand n args
    | none => none

/-- A listing's command word must be the first word of what the line stands for (log entry 13). -/
def checkListing (w : CmdWord) : Option (List Instr) → Option (List Instr)
  | some (i :: is) => if encode i = w then some (i :: is) else none
  | _ => none

/-- One line of assembler text, as the commands it stands for (30_encoding R71, R72). -/
def assembleLine (line : List Char) : Option (List Instr) :=
  match splitWords [] (stripComment line) with
  | [] => some []
  | t :: ts =>
    match readListingWord t with
    | some w => checkListing w (assembleWords ts)
    | none => assembleWords (t :: ts)

/-- A program, line by line (95_test_vectors section 3). -/
def assemble : List (List Char) → Option (List Instr)
  | [] => some []
  | l :: ls =>
    match assembleLine l, assemble ls with
    | some is, some js => some (is ++ js)
    | _, _ => none

/-! Writing a command out. -/

/-- A hexadecimal digit, upper case. -/
def hexChar (n : Nibble) : Char := Char.ofNat (if n.toNat < 10 then '0'.toNat + n.toNat else 'A'.toNat + (n.toNat - 10))

/-- A byte as `0x` and two hexadecimal digits. -/
def byteText (b : Byte) : List Char := ['0', 'x', hexChar (b.extractLsb' 4 4), hexChar (b.extractLsb' 0 4)]

/-- A mnemonic and its operand. -/
def withOperand (m : Mnemonic) (b : Byte) : List Char := m.name ++ [' '] ++ byteText b

/-- A command as one line (30_encoding R71). -/
def asmText : Instr → List Char
  | .rxb d => withOperand .rxb d
  | .rxend => Mnemonic.name .rxend
  | .rxrst => Mnemonic.name .rxrst
  | .dfeed d => withOperand .dfeed d
  | .txb d => withOperand .txb d
  | .txsend => Mnemonic.name .txsend
  | .txclr => Mnemonic.name .txclr
  | .escb d => withOperand .escb d
  | .escend => Mnemonic.name .escend
  | .unescb d => withOperand .unescb d
  | .unescend => Mnemonic.name .unescend
  | .rdreg r => withOperand .rdreg r
  | .errclr m => withOperand .errclr (m.setWidth 8)
  | .srst => Mnemonic.name .srst

end Sys2Proof.Machine
end

