-- ==== Sys2Proof/Machine/Packing.lean ====
section
/-! DEFINITION. How records are packed on the output channels (spec/30_encoding.md R68–R70). The log of State holds the
records; these functions give the beats a consumer sees (log entry 4). R69 and R70 give a beat as a tuple of fields and no bit
positions: where the fields stand in the beat is the model's choice (log entry 14). -/

namespace Sys2Proof.Machine

/-- The numeric status codes (10_state R30). -/
def Status.code : Status → Nibble
  | .ok => 0#4
  | .illegalCommand => 1#4
  | .preconditionViolation => 2#4
  | .escapeDesync => 3#4

/-- The 28-bit response word: `resp[27:24] = status`, `resp[23:0] = value` (30_encoding R68). -/
def Response.word (r : Response) : BitVec 28 := r.status.code ++ r.value

/-- One 11-bit RXEV beat `(kind[1:0], last, data[7:0])` (30_encoding R69). DESIGN CHOICE (log entry 14, unsafe): `kind` stands
at bits 10 and 9, `last` at bit 8, `data` at bits 7 to 0, the tuple's first field most significant; the spec gives no positions. -/
def rxBeat (kind : BitVec 2) (last : Bool) (data : Byte) : BitVec 11 := kind ++ BitVec.ofBool last ++ data

/-- The beats of one record: the same `kind` on all, `last` on the final one only (30_encoding R69). -/
def rxBeatsOf (kind : BitVec 2) : List Byte → List (BitVec 11)
  | [] => []
  | [b] => [rxBeat kind true b]
  | b :: c :: bs => rxBeat kind false b :: rxBeatsOf kind (c :: bs)

/-- The `kind` of a record; 3 is never sent (30_encoding R69). -/
def RxEvent.kind : RxEvent → BitVec 2
  | .accept _ => 0#2
  | .mismatch _ _ _ _ => 1#2
  | .desync => 2#2

/-- The data bytes of a record's beats, in order (30_encoding R69, 20_memory R44). -/
def RxEvent.data : RxEvent → List Byte
  | .accept contents => bigEndian16 (BitVec.ofNat 16 contents.length) ++ contents
  | .mismatch length contents bytesum checksum =>
    bigEndian16 length ++ contents ++ bigEndian24 bytesum ++ [checksum]
  | .desync => [0#8]

/-- An RXEV record as beats (30_encoding R69). -/
def RxEvent.beats (e : RxEvent) : List (BitVec 11) := rxBeatsOf e.kind e.data

/-- A TXOUT record as one 9-bit beat `(last, data[7:0])` (30_encoding R70). DESIGN CHOICE (log entry 14, unsafe): `last` stands
at bit 8 and `data` at bits 7 to 0, the tuple's first field most significant; the spec gives no positions. -/
def TxByte.beat (t : TxByte) : BitVec 9 := BitVec.ofBool t.last ++ t.data

end Sys2Proof.Machine
end

