-- ==== Sys2Proof/Safety.lean ====
section
/-! DEFINITION. The invariants the spec states of the state (spec/10_state.md R19–R26), and what an honest record on an
output channel is (spec/41_decoder.md R73, spec/44_manager.md R107). -/

namespace Sys2Proof.Machine

/-- The invariant of the decoder's mode, the table of 10_state R21. -/
def DecState.Inv (d : DecState) : Prop :=
  match d.mode with
  | .seekingDelimiter => d.len = 0#16 ∧ d.remain = 0#16 ∧ d.buf = [] ∧ d.sum = 0#24
  | .readingLengthMsb => d.len = 0#16 ∧ d.remain = 0#16 ∧ d.buf = [] ∧ d.sum = 0#24
  | .readingLengthLsb => d.len.extractLsb' 0 8 = 0#8 ∧ d.remain = 0#16 ∧ d.buf = [] ∧ d.sum = 0#24
  | .readingPayload =>
    1 ≤ d.remain.toNat ∧ d.remain.toNat ≤ d.len.toNat ∧ d.buf.length = d.len.toNat - d.remain.toNat ∧
      d.sum.toNat = byteSum d.buf
  | .readingChecksum => d.remain = 0#16 ∧ d.buf.length = d.len.toNat ∧ d.sum.toNat = byteSum d.buf

/-- The two flags are never both 1 (10_state R22, R23). -/
def UnescState.Inv (u : UnescState) : Prop := ¬(u.first = true ∧ u.pend = true)

/-- The TX buffer fits its capacity, and a poisoned payload fills it (10_state R25, R26). -/
def TxState.Inv (t : TxState) : Prop :=
  t.buf.length ≤ Config.txBufCap ∧ (t.poison = true → t.buf.length = Config.txBufCap)

/-- The invariant of the whole state (10_state R21–R26). -/
def State.Inv (s : State) : Prop := s.dec.Inv ∧ s.rxu.Inv ∧ s.xu.Inv ∧ s.tx.Inv

/-- An RXEV record tells the truth: an accepted payload fits a frame; a mismatch carries the length and the exact sum of
its contents, and its checksum fails the identity (41_decoder R73, 44_manager R107). -/
def RxEvent.Honest : RxEvent → Prop
  | .accept contents => contents.length ≤ Config.maxLen
  | .mismatch length contents bytesum checksum =>
    contents.length = length.toNat ∧ bytesum.toNat = byteSum contents ∧ valid bytesum checksum = false
  | .desync => True

/-- Every RXEV record emitted so far is honest. -/
def State.RxevHonest (s : State) : Prop := ∀ e ∈ s.rxev, e.Honest

/-- The state elements of 10_state R15, without the channels. -/
structure Elements where
  dec : DecState
  rxu : UnescState
  xu : UnescState
  xeFirst : Bool
  tx : TxState
  err : BitVec 4
  deriving DecidableEq, Repr

/-- The state elements a state holds (10_state R15). -/
def State.elements (s : State) : Elements :=
  { dec := s.dec, rxu := s.rxu, xu := s.xu, xeFirst := s.xeFirst, tx := s.tx, err := s.err }

end Sys2Proof.Machine
end

