-- ==== Sys2Proof/Certificates/Slice0/Obligations.lean ====
section
/-! DEFINITION. The statements about the block, from the numbered rules of spec/. Each docstring names its rules. A `next`
state is written out field by field: what is not named in it is the frame, unchanged. -/

open Sys2Proof Sys2Proof.Machine

namespace Sys2Proof.Claims

/-- The response `(OK, 0)`. -/
def okResp : Output := .resp { status := .ok, value := 0#24 }

/-- A response with value 0. -/
def resp (st : Status) : Output := .resp { status := st, value := 0#24 }

/-- The illegal words, clause by clause as 30_encoding R64 lists them. -/
def IllegalWord (w : CmdWord) : Prop :=
  w.extractLsb' 12 4 = 0x0#4 ∨ w.extractLsb' 12 4 = 0xF#4 ∨ w.extractLsb' 8 4 ≠ 0#4 ∨
  (w.extractLsb' 12 4 ∈ [0x2#4, 0x3#4, 0x6#4, 0x7#4, 0x9#4, 0xB#4, 0xE#4] ∧ w.extractLsb' 0 8 ≠ 0#8) ∨
  (w.extractLsb' 12 4 = 0xC#4 ∧ 5 < (w.extractLsb' 0 8).toNat) ∨
  (w.extractLsb' 12 4 = 0xD#4 ∧ w.extractLsb' 4 4 ≠ 0#4)

/-- The three paths that share no state but `err` (20_memory R54). -/
inductive Path where
  | rx
  | tx
  | standalone
  deriving DecidableEq, Repr

/-- The path a command belongs to; the control commands belong to none (20_memory R54). -/
def pathOf : Instr → Option Path
  | .rxb _ => some .rx
  | .rxend => some .rx
  | .rxrst => some .rx
  | .dfeed _ => some .rx
  | .txb _ => some .tx
  | .txsend => some .tx
  | .txclr => some .tx
  | .escb _ => some .standalone
  | .escend => some .standalone
  | .unescb _ => some .standalone
  | .unescend => some .standalone
  | .rdreg _ => none
  | .errclr _ => none
  | .srst => none

/-- The bytes TXSEND puts on the wire for a payload (42_encoder R91). -/
def wireFrame (payload : List Byte) : List Byte := escape Config.policy (encodeFrame payload)

/-- Whether some records hold a MISMATCH. -/
def hasMismatch (recs : List Output) : Bool :=
  (rxevOf recs).any (fun e => match e with | .mismatch _ _ _ _ => true | .accept _ => false | .desync => false)

/-- Whether some records hold a DESYNC. -/
def hasDesync (recs : List Output) : Bool := (rxevOf recs).any (fun e => decide (e = .desync))

/-- The numeric value of a decoder mode (10_state R16). -/
def modeNumber : DecMode → BitVec 3
  | .seekingDelimiter => 0#3
  | .readingLengthMsb => 1#3
  | .readingLengthLsb => 2#3
  | .readingPayload => 3#3
  | .readingChecksum => 4#3

/-- STATUS field by field, from bit 23 down to bit 0 (10_state R37). -/
def statusFields (s : State) : Word24 :=
  0#15 ++ BitVec.ofBool s.tx.poison ++ BitVec.ofBool s.xeFirst ++ BitVec.ofBool s.xu.first ++
    BitVec.ofBool s.xu.pend ++ BitVec.ofBool s.rxu.first ++ BitVec.ofBool s.rxu.pend ++ modeNumber s.dec.mode

end Sys2Proof.Claims

open Sys2Proof.Claims

/-! ## Encoding -/

/-- 30_encoding R63: some words written out from the opcode map decode to the commands they stand for. -/
def Obligations.SpecWordsDecode : Prop :=
  decode 0b0001000001111110#16 = .ok (.rxb 0x7E#8) ∧ decode 0b0010000000000000#16 = .ok .rxend ∧
  decode 0b0100000011111111#16 = .ok (.dfeed 0xFF#8) ∧ decode 0b0110000000000000#16 = .ok .txsend ∧
  decode 0b1010000001111101#16 = .ok (.unescb 0x7D#8) ∧ decode 0b1100000000000101#16 = .ok (.rdreg 5#8) ∧
  decode 0b1101000000001010#16 = .ok (.errclr 0xA#4) ∧ decode 0b1101000000010000#16 = .error .maskReserved

/-- Decoding the word of any well-formed command gives it back, with every operand at every value (30_encoding R63, R65). -/
def Obligations.DecodeOfEncodeIsIdentity : Prop :=
  ∀ i : Instr, i.WellFormed → decode (encode i) = .ok i

/-- Each legal word is the word of exactly the command it decodes to, which is well-formed (30_encoding R63, R66). -/
def Obligations.EncodeOfDecodeIsIdentity : Prop :=
  ∀ (w : CmdWord) (i : Instr), decode w = .ok i → i.WellFormed ∧ encode i = w

/-- 30_encoding R64 with 45_control R117: a word is illegal exactly on the six conditions, an illegal word only sets
`err.ILLEGAL` and answers (ILLEGAL_COMMAND, 0), and every other word runs the command it encodes. -/
def Obligations.IllegalWordsAreExactlyTheReservedOnes : Prop :=
  ∀ w : CmdWord,
    (IllegalWord w → ∀ s : State,
      stepWord w s = .next { s with err := s.err ||| 0b1000#4, out := s.out ++ [resp .illegalCommand] }) ∧
    (¬IllegalWord w → ∃ i : Instr, decode w = .ok i ∧ encode i = w ∧ ∀ s : State, stepWord w s = exec i s)

/-! ## The step -/

/-- When the word at the head of CMD decodes to a command, the step takes that word and is that command's exec (45_control
R118, 20_memory R51). -/
def Obligations.StepRunsTheDecodedCommand : Prop :=
  ∀ (s : State) (w : CmdWord) (rest : List HostInput) (i : Instr),
    s.input = .command w :: rest → decode w = .ok i → step s = exec i { s with input := rest }

/-- 45_control R117: the step on an illegal word. -/
def Obligations.StepOnIllegalWordSetsIllegalOnly : Prop :=
  ∀ (s : State) (w : CmdWord) (rest : List HostInput),
    s.input = .command w :: rest → IllegalWord w →
      step s = .next { s with input := rest, err := s.err ||| 0b1000#4, out := s.out ++ [resp .illegalCommand] }

/-- The model's form of the `rst` input (log entry 3) and of waiting (log entry 2): a pulse leaves every element at its reset
value and withdraws no record; with nothing offered nothing changes (10_state R35, 70_reset_and_hazards R129, R130). -/
def Obligations.StepOnRstAndOnNoInput : Prop :=
  ∀ s : State,
    (∀ rest, s.input = .rst :: rest → step s = .next { State.reset with input := rest, out := s.out }) ∧
    (s.input = [] → step s = .next s)

/-- Every command word completes: the step answers a next state, takes exactly that word, and appends to the log some records
without a response and then exactly one response, whose value is 0 unless the word is an RDREG (10_state R30, 45_control
R118, 60_exceptions R123). -/
def Obligations.EveryCommandEndsInOneResponse : Prop :=
  ∀ (s : State) (w : CmdWord) (rest : List HostInput), s.input = .command w :: rest →
    ∃ (t : State) (recs : List Output) (r : Response),
      step s = .next t ∧ t.input = rest ∧ t.out = s.out ++ recs ++ [.resp r] ∧ respOf recs = [] ∧
      (w.extractLsb' 12 4 ≠ 0xC#4 → r.value = 0#24)

/-- 10_state R39: the reset value of every state element. -/
def Obligations.ResetValuesOfEveryElement : Prop :=
  State.reset.elements =
    { dec := { mode := .seekingDelimiter, len := 0#16, remain := 0#16, sum := 0#24, buf := [] },
      rxu := { first := true, pend := false }, xu := { first := true, pend := false }, xeFirst := true,
      tx := { buf := [], poison := false }, err := 0#4 }

/-! ## The decoder -/

/-- 41_decoder R76: in SEEKING_DELIMITER only DELIM starts a frame, every other byte is discarded. -/
def Obligations.DfeedSeeking : Prop :=
  ∀ (d : Byte) (s : State), s.dec.mode = .seekingDelimiter →
    exec (.dfeed d) s = .next { s with
      dec := if d = 0x7E#8 then { mode := .readingLengthMsb, len := 0#16, remain := 0#16, sum := 0#24, buf := [] } else s.dec
      out := s.out ++ [okResp] }

/-- 41_decoder R77 and R78: the two length bytes, big-endian, whatever their value; a zero length goes to the checksum. -/
def Obligations.DfeedLengthBytes : Prop :=
  ∀ (d : Byte) (s : State),
    (s.dec.mode = .readingLengthMsb →
      exec (.dfeed d) s = .next { s with
        dec := { s.dec with len := d ++ 0#8, mode := .readingLengthLsb }
        out := s.out ++ [okResp] }) ∧
    (s.dec.mode = .readingLengthLsb →
      exec (.dfeed d) s = .next { s with
        dec := { s.dec with
          len := s.dec.len ||| d.setWidth 16
          remain := s.dec.len ||| d.setWidth 16
          mode := if s.dec.len ||| d.setWidth 16 = 0#16 then .readingChecksum else .readingPayload }
        out := s.out ++ [okResp] })

/-- 41_decoder R79: a payload byte is appended and summed exactly, with no wrap, wherever the invariant of R21 holds. -/
def Obligations.DfeedPayloadIsExact : Prop :=
  ∀ (d : Byte) (s : State), s.Inv → s.dec.mode = .readingPayload →
    ∃ e : DecState, exec (.dfeed d) s = .next { s with dec := e, out := s.out ++ [okResp] } ∧
      e.buf = s.dec.buf ++ [d] ∧ e.sum.toNat = s.dec.sum.toNat + d.toNat ∧
      e.remain.toNat + 1 = s.dec.remain.toNat ∧ e.len = s.dec.len ∧
      e.mode = (if s.dec.remain = 1#16 then .readingChecksum else .readingPayload)

/-- 41_decoder R80 with 44_manager R107: the checksum byte completes the frame, the decoder resets, and the validator accepts
or rejects the frame in the same step. -/
def Obligations.DfeedChecksumCompletesTheFrame : Prop :=
  ∀ (d : Byte) (s : State), s.dec.mode = .readingChecksum →
    exec (.dfeed d) s = .next
      (if (s.dec.sum.toNat % 256 + d.toNat) % 256 = 255 then
        { s with dec := { mode := .seekingDelimiter, len := 0#16, remain := 0#16, sum := 0#24, buf := [] }
                 out := s.out ++ [.rxev (.accept s.dec.buf), okResp] }
      else
        { s with dec := { mode := .seekingDelimiter, len := 0#16, remain := 0#16, sum := 0#24, buf := [] }
                 err := s.err ||| 0b0001#4
                 out := s.out ++ [.rxev (.mismatch s.dec.len s.dec.buf s.dec.sum d), okResp] })

/-- 41_decoder R83: from SEEKING_DELIMITER a frame's bytes yield nothing until the last, which yields exactly that frame
record, whatever the byte values, and leave the decoder as at reset. -/
def Obligations.DecoderYieldsTheFrameAtItsLastByte : Prop :=
  ∀ (d : DecState) (h l c : Byte) (payload : List Byte),
    d.mode = .seekingDelimiter → payload.length = h.toNat * 256 + l.toNat →
      (decFeedAll d ([0x7E#8, h, l] ++ payload)).2 = [] ∧
      decFeedAll d ([0x7E#8, h, l] ++ payload ++ [c]) =
        ({ mode := .seekingDelimiter, len := 0#16, remain := 0#16, sum := 0#24, buf := [] },
          [{ length := h ++ l, contents := payload, bytesum := BitVec.ofNat 24 (byteSum payload), checksum := c }])

/-- 41_decoder R84: noise without DELIM leaves the decoder as it is and yields nothing, so what follows is decoded as if the
noise had not been there; DELIM is no noise. -/
def Obligations.NoiseDoesNotChangeDecoding : Prop :=
  ∀ (d : DecState) (noise bs : List Byte), d.mode = .seekingDelimiter →
    ((∀ b ∈ noise, b ≠ 0x7E#8) → decFeedAll d noise = (d, []) ∧ decFeedAll d (noise ++ bs) = decFeedAll d bs) ∧
    (decFeed d 0x7E#8).1.mode = .readingLengthMsb

/-! ## The inbound pipeline -/

/-- 44_manager R108 with 43_escape R96: RXB runs the unescaper first; a first byte and an ordinary byte go to the decoder as
they are, a byte after a marker is unmasked, a marker goes nowhere, and DELIM after a marker is reported before it goes on to
the decoder. What the decoder then does is what DFEED does with that byte. -/
def Obligations.RxbUnescapesThenDecodes : Prop :=
  ∀ (d : Byte) (s : State),
    decode (0x1000#16 ||| d.setWidth 16) = .ok (.rxb d) ∧
    (s.rxu.first = true ∨ (s.rxu.pend = false ∧ d ≠ 0x7D#8) →
      ∃ t, exec (.rxb d) s = .next t ∧
        exec (.dfeed d) { s with rxu := { first := false, pend := false } } = .next t) ∧
    (s.rxu.first = false → s.rxu.pend = true → d ≠ 0x7E#8 →
      ∃ t, exec (.rxb d) s = .next t ∧
        exec (.dfeed (d ^^^ 0x20#8)) { s with rxu := { first := false, pend := false } } = .next t) ∧
    (s.rxu.first = false → s.rxu.pend = false → d = 0x7D#8 →
      exec (.rxb d) s = .next { s with rxu := { first := false, pend := true }, out := s.out ++ [okResp] }) ∧
    (s.rxu.first = false → s.rxu.pend = true → d = 0x7E#8 →
      ∃ u : State, exec (.rxb d) s = .next { u with out := u.out ++ [resp .escapeDesync] } ∧
        exec (.dfeed d) { s with rxu := { first := false, pend := false }
                                 err := s.err ||| 0b0010#4
                                 out := s.out ++ [.rxev .desync] } = .next { u with out := u.out ++ [okResp] })

/-- 60_exceptions R123 (2), (3): one RXB that meets a desync and completes a mismatching frame emits DESYNC, then MISMATCH,
then the one response ESCAPE_DESYNC, and sets both flags. -/
def Obligations.RxbDesyncPrecedesTheFrameRecord : Prop :=
  ∀ s : State, s.rxu.first = false → s.rxu.pend = true → s.dec.mode = .readingChecksum →
    s.dec.sum.toNat % 256 ≠ 0x81 →
      exec (.rxb 0x7E#8) s = .next { s with
        dec := { mode := .seekingDelimiter, len := 0#16, remain := 0#16, sum := 0#24, buf := [] }
        rxu := { first := false, pend := false }
        err := s.err ||| 0b0011#4
        out := s.out ++ [.rxev .desync, .rxev (.mismatch s.dec.len s.dec.buf s.dec.sum 0x7E#8), resp .escapeDesync] }

/-- 44_manager R109: RXEND re-arms the first-byte flag, reports a pending marker, and leaves the decoder alone. -/
def Obligations.RxendReportsThePendingMarker : Prop :=
  ∀ s : State, decode 0x2000#16 = .ok .rxend ∧
    exec .rxend s = .next
      (if s.rxu.pend = true then
        { s with rxu := { first := true, pend := false }, err := s.err ||| 0b0010#4
                 out := s.out ++ [.rxev .desync, resp .escapeDesync] }
      else { s with rxu := { first := true, pend := false }, out := s.out ++ [okResp] })

/-- 44_manager R110: RXRST drops the partial frame and the pending marker without a report; `err` stays. -/
def Obligations.RxrstDiscardsPartialState : Prop :=
  ∀ s : State, decode 0x3000#16 = .ok .rxrst ∧
    exec .rxrst s = .next { s with
      dec := { mode := .seekingDelimiter, len := 0#16, remain := 0#16, sum := 0#24, buf := [] }
      rxu := { first := true, pend := false }
      out := s.out ++ [okResp] }

/-- 44_manager R105, R106: for each bytesum exactly one checksum is valid, and only `bytesum[7:0]` counts. -/
def Obligations.OneChecksumIsValid : Prop :=
  (∀ (sum : Word24) (c : Byte), valid sum c = true ↔ c = 0xFF#8 - sum.extractLsb' 0 8) ∧
  (∀ (a b : Word24) (c : Byte), a.toNat % 256 = b.toNat % 256 → valid a c = valid b c)

/-- 44_manager R111: RXB of the escaped encoding of any payload of at most 65535 bytes, from any state between frames with no
pending marker, answers OK every time, emits exactly ACCEPT of that payload, on the last byte, and reports no error; the frame
record the decoder yields has the payload's length, exact sum and checksum; and the bytes are those TXSEND puts on TXOUT. -/
def Obligations.RoundTripDeliversThePayload : Prop :=
  ∀ (payload : List Byte) (s : State), payload.length ≤ 65535 →
    s.dec.mode = .seekingDelimiter → s.rxu.pend = false →
      runInstrs ((wireFrame payload).map .rxb) s = .next { s with
        dec := { mode := .seekingDelimiter, len := 0#16, remain := 0#16, sum := 0#24, buf := [] }
        rxu := { first := false, pend := false }
        out := s.out ++ List.replicate ((wireFrame payload).length - 1) okResp ++
          [.rxev (.accept payload), okResp] } ∧
      (∃ f : Frame, (decFeedAll s.dec (unescape Config.policy (wireFrame payload)).1).2 = [f] ∧
        f.length.toNat = payload.length ∧ f.contents = payload ∧ f.bytesum.toNat = byteSum payload ∧
        f.checksum.toNat = 255 - byteSum payload % 256) ∧
      (s.tx.poison = false → s.tx.buf = payload →
        ∃ t, exec .txsend s = .next t ∧ (txoutOf (t.out.drop s.out.length)).map (fun b => b.data) = wireFrame payload)

/-- 44_manager R111 through the commands alone: the bytes TXSEND put on TXOUT, given back to RXB, deliver the payload TXSEND
sent. -/
def Obligations.LoopbackDeliversTheSentPayload : Prop :=
  ∀ s : State, s.Inv → s.tx.poison = false → s.dec.mode = .seekingDelimiter → s.rxu.pend = false →
    ∃ t u : State, exec .txsend s = .next t ∧
      runInstrs ((txoutOf (t.out.drop s.out.length)).map (fun b => .rxb b.data)) t = .next u ∧
      rxevOf (u.out.drop t.out.length) = [.accept s.tx.buf] ∧ u.err = s.err ∧
      u.dec.mode = .seekingDelimiter ∧ u.rxu.pend = false

/-- 44_manager R112: from reset, noise without DELIM or MARKER around the escaped frame of a payload leaves exactly one RXEV
record, that payload's ACCEPT. -/
def Obligations.NoiseAroundAFrameIsIgnored : Prop :=
  ∀ payload before after : List Byte, payload.length ≤ 65535 →
    (∀ b ∈ before ++ after, b ≠ 0x7E#8 ∧ b ≠ 0x7D#8) →
      ∃ t, runInstrs ((before ++ wireFrame payload ++ after).map .rxb) State.reset = .next t ∧
        t.rxev = [.accept payload]

/-! ## The encoder and the transmit path -/

/-- 42_encoder R87, R89: the sum's low byte and the generated checksum add up to 0xFF with no carry, and that checksum is the
only one the validator accepts for the payload. -/
def Obligations.GeneratedChecksumIsTheOneAccepted : Prop :=
  ∀ payload : List Byte,
    byteSum payload % 256 + (csumGen payload).toNat = 255 ∧
    ∀ c : Byte, valid (BitVec.ofNat 24 (byteSum payload)) c = true ↔ c = csumGen payload

/-- 42_encoder R88, 30_encoding R57: the unescaped frame, byte by byte. -/
def Obligations.EncodedFrameLayout : Prop :=
  ∀ payload : List Byte, payload.length ≤ 65535 →
    ∃ h l c : Byte, encodeFrame payload = [0x7E#8, h, l] ++ payload ++ [c] ∧
      h.toNat * 256 + l.toNat = payload.length ∧ c.toNat = 255 - byteSum payload % 256 ∧
      (encodeFrame payload).length = payload.length + 4

/-- 30_encoding R58, R59: an escaped frame begins with the raw DELIM, holds no DELIM after it, is longer than the unescaped one
by the number of reserved bytes after byte 0, and has 4 to 131077 bytes (42_encoder R91). -/
def Obligations.EscapedFrameHasNoInnerDelimiter : Prop :=
  ∀ payload : List Byte, payload.length ≤ 65535 →
    (wireFrame payload).head? = some 0x7E#8 ∧ (∀ b ∈ (wireFrame payload).tail, b ≠ 0x7E#8) ∧
    (wireFrame payload).length =
      4 + payload.length + (encodeFrame payload).tail.countP (fun b => b ∈ [0x11#8, 0x13#8, 0x7D#8, 0x7E#8]) ∧
    4 ≤ (wireFrame payload).length ∧ (wireFrame payload).length ≤ 131077

/-- 42_encoder R90: TXB appends a byte while there is room, refuses and poisons at the 65536th, and refuses while poisoned; a
refused byte is not stored. -/
def Obligations.TxbAppendsOrPoisons : Prop :=
  ∀ (d : Byte) (s : State), decode (0x5000#16 ||| d.setWidth 16) = .ok (.txb d) ∧
    exec (.txb d) s = .next
      (if s.tx.poison = true ∨ s.tx.buf.length = 65535 then
        { s with tx := { buf := s.tx.buf, poison := true }, err := s.err ||| 0b0100#4
                 out := s.out ++ [resp .preconditionViolation] }
      else { s with tx := { buf := s.tx.buf ++ [d], poison := false }, out := s.out ++ [okResp] })

/-- 42_encoder R91: TXSEND emits the whole escaped frame with `last` on its final byte only, then clears the buffer; a poisoned
payload is dropped, reported, and nothing is sent. A frame is 4 to 131077 bytes where the TX path's invariant holds. -/
def Obligations.TxsendSendsTheWholeFrame : Prop :=
  ∀ s : State, decode 0x6000#16 = .ok .txsend ∧
    exec .txsend s = .next
      (if s.tx.poison = true then
        { s with tx := { buf := [], poison := false }, err := s.err ||| 0b0100#4
                 out := s.out ++ [resp .preconditionViolation] }
      else
        { s with tx := { buf := [], poison := false }
                 out := s.out ++
                   (wireFrame s.tx.buf).mapIdx
                     (fun i b => .txout { last := i == (wireFrame s.tx.buf).length - 1, data := b }) ++ [okResp] }) ∧
    (s.tx.Inv → 4 ≤ (wireFrame s.tx.buf).length ∧ (wireFrame s.tx.buf).length ≤ 131077)

/-- 42_encoder R92: TXCLR empties the buffer and lifts the poison; `err` stays. -/
def Obligations.TxclrDiscardsThePayload : Prop :=
  ∀ s : State, decode 0x7000#16 = .ok .txclr ∧
    exec .txclr s = .next { s with tx := { buf := [], poison := false }, out := s.out ++ [okResp] }

/-- 70_reset_and_hazards R139, 10_state R26: while the payload is poisoned no command puts a byte on TXOUT, and only TXSEND,
TXCLR and SRST lift the poison. -/
def Obligations.PoisonedPayloadIsNeverSent : Prop :=
  ∀ (i : Instr) (s : State), s.tx.poison = true →
    ∃ t, exec i s = .next t ∧ t.txout = s.txout ∧
      (i ≠ .txsend → i ≠ .txclr → i ≠ .srst → t.tx = s.tx)

/-! ## The standalone transforms, and escaping as functions -/

/-- 43_escape R101: ESCB. -/
def Obligations.EscbEscapesOneByte : Prop :=
  ∀ (d : Byte) (s : State), decode (0x8000#16 ||| d.setWidth 16) = .ok (.escb d) ∧
    exec (.escb d) s = .next { s with
      xeFirst := false
      out := s.out ++
        (if s.xeFirst = false ∧ d ∈ [0x11#8, 0x13#8, 0x7D#8, 0x7E#8] then [.xout 0x7D#8, .xout (d ^^^ 0x20#8)]
          else [.xout d]) ++ [okResp] }

/-- 43_escape R102: ESCEND. -/
def Obligations.EscendRearmsTheFirstByte : Prop :=
  ∀ s : State, decode 0x9000#16 = .ok .escend ∧
    exec .escend s = .next { s with xeFirst := true, out := s.out ++ [okResp] }

/-- 43_escape R103 with R96: UNESCB. -/
def Obligations.UnescbUnescapesOneByte : Prop :=
  ∀ (d : Byte) (s : State), decode (0xA000#16 ||| d.setWidth 16) = .ok (.unescb d) ∧
    exec (.unescb d) s = .next
      (if s.xu.first = false ∧ s.xu.pend = true ∧ d = 0x7E#8 then
        { s with xu := { first := false, pend := false }, err := s.err ||| 0b0010#4
                 out := s.out ++ [.xout 0x7E#8, resp .escapeDesync] }
      else if s.xu.first = false ∧ s.xu.pend = true then
        { s with xu := { first := false, pend := false }, out := s.out ++ [.xout (d ^^^ 0x20#8), okResp] }
      else if s.xu.first = false ∧ d = 0x7D#8 then
        { s with xu := { first := false, pend := true }, out := s.out ++ [okResp] }
      else { s with xu := { first := false, pend := false }, out := s.out ++ [.xout d, okResp] })

/-- 43_escape R104 with R97: UNESCEND. -/
def Obligations.UnescendReportsThePendingMarker : Prop :=
  ∀ s : State, decode 0xB000#16 = .ok .unescend ∧
    exec .unescend s = .next
      (if s.xu.pend = true then
        { s with xu := { first := true, pend := false }, err := s.err ||| 0b0010#4
                 out := s.out ++ [resp .escapeDesync] }
      else { s with xu := { first := true, pend := false }, out := s.out ++ [okResp] })

/-- 43_escape R99, for every policy (each is one that 00_scope R8 admits): unescaping undoes escaping and reports no desync, and the first
byte stays first. -/
def Obligations.UnescapeInvertsEscape : Prop :=
  ∀ (p : Policy) (bs : List Byte),
    unescape p (escape p bs) = (bs, 0) ∧ (escape p bs).head? = bs.head?

/-- 00_scope R8: fields become a policy exactly when the three constraints hold, with the fields as offered, and are refused
otherwise; the default meets them, and masking its reserved bytes never gives DELIM. -/
def Obligations.PoliciesOutsideTheConstraintsAreRefused : Prop :=
  (∀ f : PolicyFields,
    (f.marker ∈ f.reserved ∧ 0x7E#8 ∈ f.reserved ∧ (∀ r ∈ f.reserved, r ^^^ f.mask ≠ 0x7E#8) →
      ∃ p : Policy, Policy.build f = .ok p ∧ p.toPolicyFields = f) ∧
    (¬(f.marker ∈ f.reserved ∧ 0x7E#8 ∈ f.reserved ∧ (∀ r ∈ f.reserved, r ^^^ f.mask ≠ 0x7E#8)) →
      ∃ e : PolicyRefusal, Policy.build f = .error e)) ∧
  (∀ p : Policy, p.marker ∈ p.reserved ∧ 0x7E#8 ∈ p.reserved ∧ ∀ r ∈ p.reserved, r ^^^ p.mask ≠ 0x7E#8) ∧
  Policy.build { marker := 0x7D#8, mask := 0x20#8, reserved := [0x11#8, 0x13#8, 0x7D#8, 0x7E#8] } = .ok Config.policy ∧
  Config.policy.reserved.map (fun r => r ^^^ Config.policy.mask) = [0x31#8, 0x33#8, 0x5D#8, 0x5E#8]

/-- 43_escape R95 with R94: what `Escape` is on every sequence, for every admitted policy, and that it is longer by the number of reserved
bytes at indices 1 and up. -/
def Obligations.EscapeFoldsFromTheFirstByte : Prop :=
  ∀ (p : Policy) (bs : List Byte),
    escape p bs = bs.take 1 ++ bs.tail.flatMap (fun b => if b ∈ p.reserved then [p.marker, b ^^^ p.mask] else [b]) ∧
    (escape p bs).length = bs.length + bs.tail.countP (fun b => decide (b ∈ p.reserved))

/-- The standalone commands compute the whole-sequence functions: a run of ESCB and ESCEND puts `Escape` on XOUT, a run of
UNESCB and UNESCEND puts `Unescape` there (30_encoding R72, 43_escape R95, R98, R101–R104). -/
def Obligations.StandaloneRunsComputeTheTransforms : Prop :=
  ∀ (bs : List Byte) (s : State),
    (s.xeFirst = true → ∃ t, runInstrs (Pseudo.escape bs).expand s = .next t ∧
      t.xout = s.xout ++ escape Config.policy bs ∧ t.xeFirst = true ∧ t.err = s.err) ∧
    (s.xu.first = true → s.xu.pend = false → ∃ t, runInstrs (Pseudo.unescape bs).expand s = .next t ∧
      t.xout = s.xout ++ (unescape Config.policy bs).1 ∧ t.xu = { first := true, pend := false } ∧
      t.err = if (unescape Config.policy bs).2 = 0 then s.err else s.err ||| 0b0010#4)

/-! ## Control commands -/

/-- 45_control R114, 10_state R36, R37, R38: what RDREG answers for each register, field by field; nothing but the response is
changed. TXCOUNT is 65535 while poisoned, where the TX path's invariant holds. -/
def Obligations.RdregReadsEachRegister : Prop :=
  (∀ r : Byte, r.toNat ≤ 5 → decode (0xC000#16 ||| r.setWidth 16) = .ok (.rdreg r)) ∧
  statusFields State.reset = 0x0000D0#24 ∧
  ∀ s : State,
    exec (.rdreg 0#8) s = .next { s with out := s.out ++ [.resp { status := .ok, value := statusFields s }] } ∧
    exec (.rdreg 1#8) s = .next { s with out := s.out ++ [.resp { status := .ok, value := 0#8 ++ s.dec.len }] } ∧
    exec (.rdreg 2#8) s = .next { s with out := s.out ++ [.resp { status := .ok, value := 0#8 ++ s.dec.remain }] } ∧
    exec (.rdreg 3#8) s = .next { s with out := s.out ++ [.resp { status := .ok, value := s.dec.sum }] } ∧
    exec (.rdreg 4#8) s =
      .next { s with out := s.out ++ [.resp { status := .ok, value := BitVec.ofNat 24 s.tx.buf.length }] } ∧
    exec (.rdreg 5#8) s = .next { s with out := s.out ++ [.resp { status := .ok, value := 0#20 ++ s.err }] } ∧
    (s.tx.Inv → s.tx.poison = true → BitVec.ofNat 24 s.tx.buf.length = 65535#24)

/-- 30_encoding R64, 10_state R36: a register number above 5 is no RDREG; its word is illegal and is executed as R117, through
the decoder and in the meaning alike. -/
def Obligations.RdregAboveFiveIsIllegal : Prop :=
  ∀ (r : Byte) (s : State), 5 < r.toNat →
    decode (0xC000#16 ||| r.setWidth 16) = .error .registerNumber ∧
    exec (.rdreg r) s = .next { s with err := s.err ||| 0b1000#4, out := s.out ++ [resp .illegalCommand] }

/-- 45_control R115: ERRCLR clears exactly the flags its mask selects. -/
def Obligations.ErrclrClearsTheSelectedFlags : Prop :=
  ∀ (m : Nibble) (s : State), decode (0xD000#16 ||| m.setWidth 16) = .ok (.errclr m) ∧
    ∃ e : BitVec 4, exec (.errclr m) s = .next { s with err := e, out := s.out ++ [okResp] } ∧
      ∀ k, k < 4 → e.getLsbD k = (s.err.getLsbD k && !m.getLsbD k)

/-- 45_control R116, 70_reset_and_hazards R129: SRST sets every element to its reset value; emitted records stay. -/
def Obligations.SrstResetsEveryElement : Prop :=
  ∀ s : State, decode 0xE000#16 = .ok .srst ∧
    exec .srst s = .next { State.reset with input := s.input, out := s.out ++ [okResp] }

/-! ## Errors and flags -/

/-- 60_exceptions R119, R121: the flags record exactly what was reported. For every command but ERRCLR and SRST: CSUM rises with a
MISMATCH record and only then, DESYNC, PRECOND and ILLEGAL with their response status and only then. -/
def Obligations.FlagsRecordTheReports : Prop :=
  ∀ (i : Instr) (s : State), (∀ m, i ≠ .errclr m) → i ≠ .srst →
    ∃ (t : State) (recs : List Output) (r : Response),
      exec i s = .next t ∧ t.out = s.out ++ recs ++ [.resp r] ∧
      t.err.getLsbD 0 = (s.err.getLsbD 0 || hasMismatch recs) ∧
      t.err.getLsbD 1 = (s.err.getLsbD 1 || decide (r.status = .escapeDesync)) ∧
      t.err.getLsbD 2 = (s.err.getLsbD 2 || decide (r.status = .preconditionViolation)) ∧
      t.err.getLsbD 3 = (s.err.getLsbD 3 || decide (r.status = .illegalCommand))

/-- 10_state R27: a flag is cleared only by ERRCLR or a reset. -/
def Obligations.FlagsAreSticky : Prop :=
  ∀ (i : Instr) (s t : State), (∀ m, i ≠ .errclr m) → i ≠ .srst → exec i s = .next t →
    ∀ k, s.err.getLsbD k = true → t.err.getLsbD k = true

/-- 60_exceptions R119, R121: a DESYNC record on RXEV comes from the RX path only: a command that answers ESCAPE_DESYNC emits one
exactly when it is RXB or RXEND, and no command without that status emits one. -/
def Obligations.DesyncRecordOnTheRxPathOnly : Prop :=
  ∀ (i : Instr) (s : State), ∃ (t : State) (recs : List Output) (r : Response),
    exec i s = .next t ∧ t.out = s.out ++ recs ++ [.resp r] ∧
    (hasDesync recs = true ↔ r.status = .escapeDesync ∧ ((∃ d, i = .rxb d) ∨ i = .rxend))

/-! ## Frames and independence -/

/-- Frame of the RX-path commands RXB, RXEND, RXRST and DFEED: the TX path, the standalone transform, the flags PRECOND and
ILLEGAL, the input and the channels TXOUT and XOUT are unchanged; RXEND leaves the decoder, DFEED the unescaper (20_memory R54). -/
def Obligations.RxPathFrame : Prop :=
  ∀ (i : Instr) (s t : State), pathOf i = some .rx → exec i s = .next t →
    t.tx = s.tx ∧ t.xu = s.xu ∧ t.xeFirst = s.xeFirst ∧ t.input = s.input ∧ t.txout = s.txout ∧ t.xout = s.xout ∧
    t.err.getLsbD 2 = s.err.getLsbD 2 ∧ t.err.getLsbD 3 = s.err.getLsbD 3 ∧
    (i = .rxend → t.dec = s.dec) ∧ (∀ d, i = .dfeed d → t.rxu = s.rxu)

/-- Frame of TXB, TXSEND and TXCLR: the RX path, the standalone transform, every flag but PRECOND, the input and the channels RXEV
and XOUT are unchanged; TXB and TXCLR leave TXOUT (20_memory R54, 42_encoder R91). -/
def Obligations.TxPathFrame : Prop :=
  ∀ (i : Instr) (s t : State), pathOf i = some .tx → exec i s = .next t →
    t.dec = s.dec ∧ t.rxu = s.rxu ∧ t.xu = s.xu ∧ t.xeFirst = s.xeFirst ∧ t.input = s.input ∧ t.rxev = s.rxev ∧
    t.xout = s.xout ∧ (∀ k, k ≠ 2 → t.err.getLsbD k = s.err.getLsbD k) ∧ (i ≠ .txsend → t.txout = s.txout)

/-- Frame of ESCB, ESCEND, UNESCB and UNESCEND: the RX path, the TX path, every flag but DESYNC, the input and the channels RXEV and
TXOUT are unchanged; the escaper's commands leave the unescaper and the other way round (20_memory R54, 43_escape). -/
def Obligations.StandaloneFrame : Prop :=
  ∀ (i : Instr) (s t : State), pathOf i = some .standalone → exec i s = .next t →
    t.dec = s.dec ∧ t.rxu = s.rxu ∧ t.tx = s.tx ∧ t.input = s.input ∧ t.rxev = s.rxev ∧ t.txout = s.txout ∧
    (∀ k, k ≠ 1 → t.err.getLsbD k = s.err.getLsbD k) ∧
    ((∃ d, i = .escb d) ∨ i = .escend → t.xu = s.xu ∧ t.err = s.err) ∧
    ((∃ d, i = .unescb d) ∨ i = .unescend → t.xeFirst = s.xeFirst)

/-- Frame of the control commands: they emit nothing but their response, a well-formed RDREG changes no element, ERRCLR none but
`err` (20_memory R49, 45_control R114–R116). -/
def Obligations.ControlFrame : Prop :=
  ∀ (i : Instr) (s t : State), pathOf i = none → exec i s = .next t →
    t.input = s.input ∧ t.rxev = s.rxev ∧ t.txout = s.txout ∧ t.xout = s.xout ∧
    (∀ r, i = .rdreg r → i.WellFormed → t.elements = s.elements) ∧
    (∀ m, i = .errclr m → t.elements = { s.elements with err := t.err })

/-- 20_memory R54: two commands of different paths give the same state and the same records per channel in either order, apart from
the order of their two responses. -/
def Obligations.PathsAreIndependent : Prop :=
  ∀ (i j : Instr) (p q : Path) (s : State), pathOf i = some p → pathOf j = some q → p ≠ q →
    ∃ (a b : State) (ri rj : Response),
      runInstrs [i, j] s = .next a ∧ runInstrs [j, i] s = .next b ∧
      a.elements = b.elements ∧ a.rxev = b.rxev ∧ a.txout = b.txout ∧ a.xout = b.xout ∧
      a.resp = s.resp ++ [ri, rj] ∧ b.resp = s.resp ++ [rj, ri]

/-- 20_memory R49: RXRST, TXCLR, ESCEND, SRST, ERRCLR, RXEND and UNESCEND twice in a row leave the elements one of them leaves, and
the second RXEND or UNESCEND reports nothing. -/
def Obligations.ResettingCommandsAreIdempotent : Prop :=
  ∀ (i : Instr) (s : State),
    i = .rxrst ∨ i = .txclr ∨ i = .escend ∨ i = .srst ∨ (∃ m, i = .errclr m) ∨ i = .rxend ∨ i = .unescend →
      ∃ a b : State, exec i s = .next a ∧ exec i a = .next b ∧ b.elements = a.elements ∧ b.out = a.out ++ [okResp]

/-! ## Invariants -/

/-- The reset state meets the invariant of 10_state R21–R26, and its (empty) log is honest. -/
def Obligations.ResetMeetsTheInvariant : Prop :=
  State.reset.Inv ∧ State.reset.RxevHonest

/-- 10_state R21, R22, R23, R25, R26: every step keeps the invariant, from every state that meets it. -/
def Obligations.StepKeepsTheInvariant : Prop :=
  ∀ s t : State, s.Inv → step s = .next t → t.Inv

/-- 41_decoder R73, 44_manager R107: every step keeps the RXEV channel honest: an ACCEPT holds at most 65535 bytes; a MISMATCH carries
the length and the exact sum of its contents and a checksum that fails the identity. -/
def Obligations.RxevRecordsStayHonest : Prop :=
  ∀ s t : State, s.Inv → s.RxevHonest → step s = .next t → t.Inv ∧ t.RxevHonest

/-- 10_state R19, R20, R25, 20_memory R42: where the invariant holds, the bytesum is exact and at most 0xFEFF01, and neither buffer is
longer than 65535 bytes. -/
def Obligations.BuffersAndSumStayInRange : Prop :=
  ∀ s : State, s.Inv →
    s.dec.buf.length ≤ 65535 ∧ s.tx.buf.length ≤ 65535 ∧ s.dec.sum.toNat = byteSum s.dec.buf ∧ s.dec.sum.toNat ≤ 0xFEFF01

/-- 10_state R34: the log is append-only: no step withdraws or changes a record already emitted. -/
def Obligations.RecordsAreNeverWithdrawn : Prop :=
  ∀ s : State, ∃ (t : State) (recs : List Output), step s = .next t ∧ t.out = s.out ++ recs

/-! ## Packing and text -/

/-- The fields of a response word where 30_encoding R68 puts them, and of a TXOUT beat where the model puts them: R70 gives no
bit positions, so that `last` is bit 8 is the model's choice (log entry 14). -/
def Obligations.ResponseAndTxoutWords : Prop :=
  (∀ r : Response, r.word.extractLsb' 0 24 = r.value ∧
    r.word.extractLsb' 24 4 =
      (match r.status with
        | .ok => 0#4
        | .illegalCommand => 1#4
        | .preconditionViolation => 2#4
        | .escapeDesync => 3#4)) ∧
  (∀ t : TxByte, t.beat.extractLsb' 0 8 = t.data ∧ t.beat.getLsbD 8 = t.last)

/-- The beats of each record (30_encoding section 3), read at the bits where the model puts the fields, which the spec leaves
open: `kind` at 10 and 9, `last` at 8, `data` at 7 to 0 (the model's choice, log entry 14). Their number, the record's `kind` on all of them, `last` on the final one only, and
the data bytes in order, most significant first. -/
def Obligations.RxevBeatShape : Prop :=
  ∀ e : RxEvent,
    (∀ b ∈ e.beats, b.extractLsb' 9 2 =
      (match e with
        | .accept _ => 0#2
        | .mismatch _ _ _ _ => 1#2
        | .desync => 2#2)) ∧
    e.beats.map (fun b => b.getLsbD 8) = List.replicate (e.beats.length - 1) false ++ [true] ∧
    e.beats.map (fun b => b.extractLsb' 0 8) =
      (match e with
        | .accept c => [BitVec.ofNat 8 (c.length / 256), BitVec.ofNat 8 c.length] ++ c
        | .mismatch n c sum k =>
          [n.extractLsb' 8 8, n.extractLsb' 0 8] ++ c ++
            [sum.extractLsb' 16 8, sum.extractLsb' 8 8, sum.extractLsb' 0 8, k]
        | .desync => [0#8]) ∧
    e.beats.length =
      (match e with
        | .accept c => 2 + c.length
        | .mismatch _ c _ _ => 6 + c.length
        | .desync => 1)

/-- Different records are packed into different beats, so a consumer reads back the record (30_encoding R69). -/
def Obligations.RxevBeatsDetermineTheRecord : Prop :=
  ∀ e f : RxEvent, e.beats = f.beats → e = f

/-- A command written out is read back by the assembler, for every well-formed command (30_encoding R71). -/
def Obligations.WrittenCommandsAreReadBack : Prop :=
  ∀ i : Instr, i.WellFormed → assembleLine (asmText i) = some [i]
end

