-- ==== Sys2Proof/Laws/State.lean ====
section
/-! SUPPORT. What each shared update leaves in each field of State, so that no later proof unfolds a record update. -/

namespace Sys2Proof.Machine

/-! `emit`. -/

@[simp] theorem emit_dec (os : List Output) (s : State) : (emit os s).dec = s.dec := rfl
@[simp] theorem emit_rxu (os : List Output) (s : State) : (emit os s).rxu = s.rxu := rfl
@[simp] theorem emit_xu (os : List Output) (s : State) : (emit os s).xu = s.xu := rfl
@[simp] theorem emit_xeFirst (os : List Output) (s : State) : (emit os s).xeFirst = s.xeFirst := rfl
@[simp] theorem emit_tx (os : List Output) (s : State) : (emit os s).tx = s.tx := rfl
@[simp] theorem emit_err (os : List Output) (s : State) : (emit os s).err = s.err := rfl
@[simp] theorem emit_input (os : List Output) (s : State) : (emit os s).input = s.input := rfl
@[simp] theorem emit_out (os : List Output) (s : State) : (emit os s).out = s.out ++ os := rfl

/-! `respond`. -/

@[simp] theorem respond_dec (st : Status) (v : Word24) (s : State) : (respond st v s).dec = s.dec := rfl
@[simp] theorem respond_rxu (st : Status) (v : Word24) (s : State) : (respond st v s).rxu = s.rxu := rfl
@[simp] theorem respond_xu (st : Status) (v : Word24) (s : State) : (respond st v s).xu = s.xu := rfl
@[simp] theorem respond_xeFirst (st : Status) (v : Word24) (s : State) : (respond st v s).xeFirst = s.xeFirst := rfl
@[simp] theorem respond_tx (st : Status) (v : Word24) (s : State) : (respond st v s).tx = s.tx := rfl
@[simp] theorem respond_err (st : Status) (v : Word24) (s : State) : (respond st v s).err = s.err := rfl
@[simp] theorem respond_input (st : Status) (v : Word24) (s : State) : (respond st v s).input = s.input := rfl
@[simp] theorem respond_out (st : Status) (v : Word24) (s : State) : (respond st v s).out = s.out ++ [.resp { status := st, value := v }] := rfl

/-! `report`. -/

@[simp] theorem report_dec (r : Report) (s : State) : (report r s).dec = s.dec := rfl
@[simp] theorem report_rxu (r : Report) (s : State) : (report r s).rxu = s.rxu := rfl
@[simp] theorem report_xu (r : Report) (s : State) : (report r s).xu = s.xu := rfl
@[simp] theorem report_xeFirst (r : Report) (s : State) : (report r s).xeFirst = s.xeFirst := rfl
@[simp] theorem report_tx (r : Report) (s : State) : (report r s).tx = s.tx := rfl
@[simp] theorem report_err (r : Report) (s : State) : (report r s).err = setFlag r.flag s.err := rfl
@[simp] theorem report_input (r : Report) (s : State) : (report r s).input = s.input := rfl
@[simp] theorem report_out (r : Report) (s : State) : (report r s).out = s.out ++ r.records := rfl

/-! `illegalCommand`. -/

@[simp] theorem illegalCommand_dec (s : State) : (illegalCommand s).dec = s.dec := rfl
@[simp] theorem illegalCommand_rxu (s : State) : (illegalCommand s).rxu = s.rxu := rfl
@[simp] theorem illegalCommand_xu (s : State) : (illegalCommand s).xu = s.xu := rfl
@[simp] theorem illegalCommand_xeFirst (s : State) : (illegalCommand s).xeFirst = s.xeFirst := rfl
@[simp] theorem illegalCommand_tx (s : State) : (illegalCommand s).tx = s.tx := rfl
@[simp] theorem illegalCommand_err (s : State) : (illegalCommand s).err = setFlag .illegal s.err := rfl
@[simp] theorem illegalCommand_input (s : State) : (illegalCommand s).input = s.input := rfl
@[simp] theorem illegalCommand_out (s : State) :
    (illegalCommand s).out = s.out ++ [.resp { status := .illegalCommand, value := 0#24 }] := by
  simp [illegalCommand, Report.records]

/-! `resetState`. -/

@[simp] theorem resetState_dec (s : State) : (resetState s).dec = decReset := rfl
@[simp] theorem resetState_rxu (s : State) : (resetState s).rxu = { first := true, pend := false } := rfl
@[simp] theorem resetState_xu (s : State) : (resetState s).xu = { first := true, pend := false } := rfl
@[simp] theorem resetState_xeFirst (s : State) : (resetState s).xeFirst = true := rfl
@[simp] theorem resetState_tx (s : State) : (resetState s).tx = { buf := [], poison := false } := rfl
@[simp] theorem resetState_err (s : State) : (resetState s).err = 0#4 := rfl
@[simp] theorem resetState_input (s : State) : (resetState s).input = s.input := rfl
@[simp] theorem resetState_out (s : State) : (resetState s).out = s.out := rfl

/-! `reportIf`. -/

@[simp] theorem reportIf_dec (c : Bool) (r : Report) (s : State) : (reportIf c r s).dec = s.dec := by
  cases c <;> rfl
@[simp] theorem reportIf_rxu (c : Bool) (r : Report) (s : State) : (reportIf c r s).rxu = s.rxu := by
  cases c <;> rfl
@[simp] theorem reportIf_xu (c : Bool) (r : Report) (s : State) : (reportIf c r s).xu = s.xu := by
  cases c <;> rfl
@[simp] theorem reportIf_xeFirst (c : Bool) (r : Report) (s : State) : (reportIf c r s).xeFirst = s.xeFirst := by
  cases c <;> rfl
@[simp] theorem reportIf_tx (c : Bool) (r : Report) (s : State) : (reportIf c r s).tx = s.tx := by
  cases c <;> rfl
@[simp] theorem reportIf_input (c : Bool) (r : Report) (s : State) : (reportIf c r s).input = s.input := by
  cases c <;> rfl
@[simp] theorem reportIf_err (c : Bool) (r : Report) (s : State) :
    (reportIf c r s).err = if c then setFlag r.flag s.err else s.err := by
  cases c <;> rfl
@[simp] theorem reportIf_out (c : Bool) (r : Report) (s : State) :
    (reportIf c r s).out = s.out ++ if c then r.records else [] := by
  cases c <;> simp [reportIf]

/-! `complete` and `completeAny`: the frame's verdict touches `err` and the log only. -/

@[simp] theorem complete_dec (f : Frame) (s : State) : (complete f s).dec = s.dec := by
  unfold complete; split <;> rfl
@[simp] theorem complete_rxu (f : Frame) (s : State) : (complete f s).rxu = s.rxu := by
  unfold complete; split <;> rfl
@[simp] theorem complete_xu (f : Frame) (s : State) : (complete f s).xu = s.xu := by
  unfold complete; split <;> rfl
@[simp] theorem complete_xeFirst (f : Frame) (s : State) : (complete f s).xeFirst = s.xeFirst := by
  unfold complete; split <;> rfl
@[simp] theorem complete_tx (f : Frame) (s : State) : (complete f s).tx = s.tx := by
  unfold complete; split <;> rfl
@[simp] theorem complete_input (f : Frame) (s : State) : (complete f s).input = s.input := by
  unfold complete; split <;> rfl
@[simp] theorem completeAny_dec (o : Option Frame) (s : State) : (completeAny o s).dec = s.dec := by
  cases o <;> simp [completeAny]
@[simp] theorem completeAny_rxu (o : Option Frame) (s : State) : (completeAny o s).rxu = s.rxu := by
  cases o <;> simp [completeAny]
@[simp] theorem completeAny_xu (o : Option Frame) (s : State) : (completeAny o s).xu = s.xu := by
  cases o <;> simp [completeAny]
@[simp] theorem completeAny_xeFirst (o : Option Frame) (s : State) : (completeAny o s).xeFirst = s.xeFirst := by
  cases o <;> simp [completeAny]
@[simp] theorem completeAny_tx (o : Option Frame) (s : State) : (completeAny o s).tx = s.tx := by
  cases o <;> simp [completeAny]
@[simp] theorem completeAny_input (o : Option Frame) (s : State) : (completeAny o s).input = s.input := by
  cases o <;> simp [completeAny]

/-! `feedDecoder` and `feedDecoderAny`: a byte to the decoder touches `dec`, `err` and the log only. -/

@[simp] theorem feedDecoder_dec (b : Byte) (s : State) : (feedDecoder b s).dec = (decFeed s.dec b).1 := by
  simp [feedDecoder]
@[simp] theorem feedDecoder_rxu (b : Byte) (s : State) : (feedDecoder b s).rxu = s.rxu := by
  simp [feedDecoder]
@[simp] theorem feedDecoder_xu (b : Byte) (s : State) : (feedDecoder b s).xu = s.xu := by
  simp [feedDecoder]
@[simp] theorem feedDecoder_xeFirst (b : Byte) (s : State) : (feedDecoder b s).xeFirst = s.xeFirst := by
  simp [feedDecoder]
@[simp] theorem feedDecoder_tx (b : Byte) (s : State) : (feedDecoder b s).tx = s.tx := by
  simp [feedDecoder]
@[simp] theorem feedDecoder_input (b : Byte) (s : State) : (feedDecoder b s).input = s.input := by
  simp [feedDecoder]
@[simp] theorem feedDecoderAny_rxu (o : Option Byte) (s : State) : (feedDecoderAny o s).rxu = s.rxu := by
  cases o <;> simp [feedDecoderAny]
@[simp] theorem feedDecoderAny_xu (o : Option Byte) (s : State) : (feedDecoderAny o s).xu = s.xu := by
  cases o <;> simp [feedDecoderAny]
@[simp] theorem feedDecoderAny_xeFirst (o : Option Byte) (s : State) : (feedDecoderAny o s).xeFirst = s.xeFirst := by
  cases o <;> simp [feedDecoderAny]
@[simp] theorem feedDecoderAny_tx (o : Option Byte) (s : State) : (feedDecoderAny o s).tx = s.tx := by
  cases o <;> simp [feedDecoderAny]
@[simp] theorem feedDecoderAny_input (o : Option Byte) (s : State) : (feedDecoderAny o s).input = s.input := by
  cases o <;> simp [feedDecoderAny]

/-! The input. -/

@[simp] theorem offer_input (w : CmdWord) (s : State) : (offer w s).input = s.input ++ [.command w] := rfl
@[simp] theorem offer_out (w : CmdWord) (s : State) : (offer w s).out = s.out := rfl
@[simp] theorem putNextWord_input (w : CmdWord) (s : State) : (putNextWord w s).input = .command w :: s.input := rfl

end Sys2Proof.Machine
end

