-- ==== Sys2Proof/Laws/Ops.lean ====
section
/-! SUPPORT. What each shared operation can do, said once: the flags, the channels of a log, the reports, the input. -/

namespace Sys2Proof.Machine

/-! Flags. -/

/-- Setting a flag sets its own bit and leaves every other bit. -/
theorem setFlag_getLsbD (f : ErrFlag) (err : BitVec 4) (k : Nat) :
    (setFlag f err).getLsbD k = (err.getLsbD k || decide (k = f.bit)) := by
  rcases Nat.lt_or_ge k 4 with h | h
  · revert err
    interval_cases k <;> cases f <;> decide
  · have hk : k ≠ f.bit := by cases f <;> simp only [ErrFlag.bit] <;> omega
    rw [BitVec.getLsbD_of_ge _ _ h, BitVec.getLsbD_of_ge _ _ h]
    simp [hk]

/-- Clearing by a mask clears the bits of the mask and leaves every other bit. -/
theorem clearFlags_getLsbD (m : Nibble) (err : BitVec 4) {k : Nat} (h : k < 4) :
    (clearFlags m err).getLsbD k = (err.getLsbD k && !m.getLsbD k) := by
  simp [clearFlags, h]

/-- Flags set in either order give the same flags. -/
theorem setFlag_comm (f g : ErrFlag) (err : BitVec 4) : setFlag f (setFlag g err) = setFlag g (setFlag f err) := by
  simp only [setFlag, BitVec.or_assoc, BitVec.or_comm (1#4 <<< f.bit)]

/-! The channels of a log. -/

@[simp] theorem respOf_append (a b : List Output) : respOf (a ++ b) = respOf a ++ respOf b := by
  induction a with
  | nil => rfl
  | cons o os ih => cases o <;> simp [respOf, ih]

@[simp] theorem rxevOf_append (a b : List Output) : rxevOf (a ++ b) = rxevOf a ++ rxevOf b := by
  induction a with
  | nil => rfl
  | cons o os ih => cases o <;> simp [rxevOf, ih]

@[simp] theorem txoutOf_append (a b : List Output) : txoutOf (a ++ b) = txoutOf a ++ txoutOf b := by
  induction a with
  | nil => rfl
  | cons o os ih => cases o <;> simp [txoutOf, ih]

@[simp] theorem xoutOf_append (a b : List Output) : xoutOf (a ++ b) = xoutOf a ++ xoutOf b := by
  induction a with
  | nil => rfl
  | cons o os ih => cases o <;> simp [xoutOf, ih]

/-- TXOUT records are seen on TXOUT and on no other channel. -/
@[simp] theorem txoutOf_map_txout (ts : List TxByte) : txoutOf (ts.map .txout) = ts := by
  induction ts with
  | nil => rfl
  | cons t ts ih => simp [txoutOf, ih]

@[simp] theorem rxevOf_map_txout (ts : List TxByte) : rxevOf (ts.map .txout) = [] := by
  induction ts with
  | nil => rfl
  | cons t ts ih => simp [rxevOf, ih]

@[simp] theorem xoutOf_map_txout (ts : List TxByte) : xoutOf (ts.map .txout) = [] := by
  induction ts with
  | nil => rfl
  | cons t ts ih => simp [xoutOf, ih]

@[simp] theorem respOf_map_txout (ts : List TxByte) : respOf (ts.map .txout) = [] := by
  induction ts with
  | nil => rfl
  | cons t ts ih => simp [respOf, ih]

/-- XOUT records are seen on XOUT and on no other channel. -/
@[simp] theorem xoutOf_map_xout (bs : List Byte) : xoutOf (bs.map .xout) = bs := by
  induction bs with
  | nil => rfl
  | cons b bs ih => simp [xoutOf, ih]

@[simp] theorem rxevOf_map_xout (bs : List Byte) : rxevOf (bs.map .xout) = [] := by
  induction bs with
  | nil => rfl
  | cons b bs ih => simp [rxevOf, ih]

@[simp] theorem txoutOf_map_xout (bs : List Byte) : txoutOf (bs.map .xout) = [] := by
  induction bs with
  | nil => rfl
  | cons b bs ih => simp [txoutOf, ih]

@[simp] theorem respOf_map_xout (bs : List Byte) : respOf (bs.map .xout) = [] := by
  induction bs with
  | nil => rfl
  | cons b bs ih => simp [respOf, ih]

/-! Reports. -/

/-- A report emits nothing, or one RXEV record that is a DESYNC or a MISMATCH. -/
theorem report_records_cases (r : Report) :
    r.records = [] ∨ r.records = [.rxev .desync] ∨
      ∃ l c b k, r.records = [.rxev (.mismatch l c b k)] := by
  cases r <;> simp [Report.records]

/-! The input. -/

/-- The oldest input is taken, and nothing else changes. -/
theorem takeInput_some {s t : State} {h : HostInput} (e : takeInput s = some (h, t)) :
    ∃ rest, s.input = h :: rest ∧ t = { s with input := rest } := by
  unfold takeInput at e
  split at e
  · cases e
  · next h' rest hs =>
    cases e
    exact ⟨rest, hs, rfl⟩

/-- Nothing is taken exactly while nothing is offered. -/
theorem takeInput_none {s : State} (e : takeInput s = none) : s.input = [] := by
  unfold takeInput at e
  split at e
  · assumption
  · cases e

/-! Sums. -/

@[simp] theorem byteSum_append (a b : List Byte) : byteSum (a ++ b) = byteSum a + byteSum b := by
  induction a with
  | nil => simp [byteSum]
  | cons x xs ih => simp [byteSum, ih]; omega

/-- A sum of bytes is at most 255 for each (10_state R19). -/
theorem byteSum_le (bs : List Byte) : byteSum bs ≤ 255 * bs.length := by
  induction bs with
  | nil => simp [byteSum]
  | cons b bs ih =>
    have := b.isLt
    simp only [byteSum, List.length_cons]
    omega

end Sys2Proof.Machine
end

