-- ==== Sys2Proof/Laws/Decoder.lean ====
section
/-! SUPPORT. What one decoder step can do (spec/41_decoder.md R74–R80), and that it keeps the invariant of R21. -/

namespace Sys2Proof.Machine

/-- The five modes of a decoder step: only a checksum byte yields a frame. -/
theorem decFeed_cases (d : DecState) (b : Byte) :
    (d.mode = .seekingDelimiter ∧ decFeed d b = (feedSeeking d b, none)) ∨
    (d.mode = .readingLengthMsb ∧ decFeed d b = (feedLengthMsb d b, none)) ∨
    (d.mode = .readingLengthLsb ∧ decFeed d b = (feedLengthLsb d b, none)) ∨
    (d.mode = .readingPayload ∧ decFeed d b = (feedPayload d b, none)) ∨
    (d.mode = .readingChecksum ∧
      decFeed d b = (decReset, some { length := d.len, contents := d.buf, bytesum := d.sum, checksum := b })) := by
  unfold decFeed
  cases d.mode <;> simp

/-- What the validator does with a frame: one ACCEPT and no flag, or one MISMATCH and the flag CSUM (44_manager R107). -/
theorem complete_cases (f : Frame) (s : State) :
    (valid f.bytesum f.checksum = true ∧ complete f s = { s with out := s.out ++ [.rxev (.accept f.contents)] }) ∨
    (valid f.bytesum f.checksum = false ∧ complete f s =
      { s with err := setFlag .csum s.err
               out := s.out ++ [.rxev (.mismatch f.length f.contents f.bytesum f.checksum)] }) := by
  unfold complete
  cases h : valid f.bytesum f.checksum
  · exact .inr ⟨rfl, rfl⟩
  · exact .inl ⟨rfl, rfl⟩

/-- The decoder's initial state meets the invariant. -/
theorem decReset_inv : decReset.Inv := by
  simp [decReset, DecState.reset, DecState.Inv]

/-- A payload byte's sum does not wrap where the invariant holds (10_state R19). -/
theorem DecState.Inv.sum_exact {d : DecState} (h : d.Inv) (hm : d.mode = .readingPayload) (b : Byte) :
    (d.sum + b.setWidth 24).toNat = d.sum.toNat + b.toNat := by
  simp only [DecState.Inv, hm] at h
  obtain ⟨h1, h2, h3, h4⟩ := h
  have hs := byteSum_le d.buf
  have hl := d.len.isLt
  have hb := b.isLt
  simp only [BitVec.toNat_add, BitVec.toNat_setWidth]
  omega

/-- Every decoder step keeps the invariant of the decoder's mode (10_state R21). -/
theorem decFeed_inv {d : DecState} (h : d.Inv) (b : Byte) : (decFeed d b).1.Inv := by
  rcases decFeed_cases d b with ⟨hm, e⟩ | ⟨hm, e⟩ | ⟨hm, e⟩ | ⟨hm, e⟩ | ⟨hm, e⟩ <;> rw [e]
  · unfold feedSeeking
    split
    · simp [decReset, DecState.reset, DecState.Inv]
    · exact h
  · simp only [DecState.Inv, hm] at h
    obtain ⟨-, h2, h3, h4⟩ := h
    refine ⟨?_, h2, h3, h4⟩
    simp only [feedLengthMsb]
    apply BitVec.eq_of_getLsbD_eq
    intro i hi
    simp
    omega
  · simp only [DecState.Inv, hm] at h
    obtain ⟨-, h2, h3, h4⟩ := h
    simp only [feedLengthLsb]
    generalize d.len ||| b.setWidth 16 = n
    by_cases hz : n = 0#16
    · simp [hz, DecState.Inv, h3, h4, byteSum]
    · have : n.toNat ≠ 0 := fun hn => hz (BitVec.eq_of_toNat_eq (by simpa using hn))
      simp only [hz, if_false, DecState.Inv, h3, h4, byteSum, List.length_nil, BitVec.toNat_ofNat]
      exact ⟨by omega, le_refl _, by omega, trivial⟩
  · have hx := h.sum_exact hm b
    simp only [DecState.Inv, hm] at h
    obtain ⟨h1, h2, h3, h4⟩ := h
    have hr : (d.remain - 1#16).toNat = d.remain.toNat - 1 := by
      have := d.remain.isLt
      simp only [BitVec.toNat_sub, BitVec.toNat_ofNat]
      omega
    by_cases hz : d.remain - 1#16 = 0#16
    · have : (d.remain - 1#16).toNat = 0 := by simp [hz]
      simp only [feedPayload, hz, if_true, DecState.Inv, List.length_append, List.length_singleton, byteSum_append, byteSum, hx]
      simp
      omega
    · have : (d.remain - 1#16).toNat ≠ 0 := fun hn => hz (BitVec.eq_of_toNat_eq (by simpa using hn))
      simp only [feedPayload, hz, if_false, DecState.Inv, List.length_append, List.length_singleton, byteSum_append, byteSum, hx, hr]
      omega
  · exact decReset_inv

end Sys2Proof.Machine
end

