-- ==== Sys2Proof/Laws/Escape.lean ====
section
/-! SUPPORT. Which policies can be built (spec/00_scope.md R8), and what one escaper step and one unescaper step can do
(spec/43_escape.md R94, R96). -/

namespace Sys2Proof.Machine

/-! The fields of the block's policy (00_scope R7). -/

@[simp] theorem policy_marker : Config.policy.marker = 0x7D#8 := rfl
@[simp] theorem policy_mask : Config.policy.mask = 0x20#8 := rfl
@[simp] theorem policy_reserved : Config.policy.reserved = [0x11#8, 0x13#8, 0x7D#8, 0x7E#8] := rfl

/-- What building a policy can do: it succeeds on fields that 00_scope R8 admits, and keeps them, and refuses all others. -/
theorem build_cases (f : PolicyFields) :
    (∃ h : f.Admitted, Policy.build f = .ok { toPolicyFields := f, admitted := h }) ∨
    (¬f.Admitted ∧ ∃ e, Policy.build f = .error e) := by
  unfold Policy.build
  split
  · split
    · split
      · next ha hb hc => exact .inl ⟨⟨ha, hb, hc⟩, rfl⟩
      · next hc => exact .inr ⟨fun h => hc h.2.2, _, rfl⟩
    · next hb => exact .inr ⟨fun h => hb h.2.1, _, rfl⟩
  · next ha => exact .inr ⟨fun h => ha h.1, _, rfl⟩

/-- A marker is reserved, so a byte that is not reserved is no marker (00_scope R8 (a)). -/
theorem ne_marker_of_not_reserved (p : Policy) {b : Byte} (h : b ∉ p.reserved) : b ≠ p.marker :=
  fun e => h (e ▸ p.admitted.1)

/-- The second byte of an escape pair is never DELIM (00_scope R8 (c)). -/
theorem escaped_ne_delim (p : Policy) {b : Byte} (h : b ∈ p.reserved) : b ^^^ p.mask ≠ Config.delim :=
  p.admitted.2.2 b h

/-- The three cases of an escaper step. -/
theorem escOut_cases (p : Policy) (first : Bool) (b : Byte) :
    (first = true ∧ escOut p first b = [b]) ∨
    (first = false ∧ b ∈ p.reserved ∧ escOut p first b = [p.marker, b ^^^ p.mask]) ∨
    (first = false ∧ b ∉ p.reserved ∧ escOut p first b = [b]) := by
  cases first
  · by_cases h : b ∈ p.reserved <;> simp [escOut, isReserved, h]
  · simp [escOut]

/-- The five cases of an unescaper step. -/
theorem unescStep_cases (p : Policy) (u : UnescState) (b : Byte) :
    (u.first = true ∧
      unescStep p u b = { next := { first := false, pend := false }, out := some b, desync := false }) ∨
    (u.first = false ∧ u.pend = true ∧ b = Config.delim ∧
      unescStep p u b = { next := { first := false, pend := false }, out := some b, desync := true }) ∨
    (u.first = false ∧ u.pend = true ∧ b ≠ Config.delim ∧
      unescStep p u b = { next := { first := false, pend := false }, out := some (b ^^^ p.mask), desync := false }) ∨
    (u.first = false ∧ u.pend = false ∧ b = p.marker ∧
      unescStep p u b = { next := { first := false, pend := true }, out := none, desync := false }) ∨
    (u.first = false ∧ u.pend = false ∧ b ≠ p.marker ∧
      unescStep p u b = { next := { first := false, pend := false }, out := some b, desync := false }) := by
  rcases u with ⟨_ | _, _ | _⟩
  · by_cases h : b = p.marker <;> simp [unescStep, h]
  · by_cases h : b = Config.delim <;> simp [unescStep, h]
  · simp [unescStep]
  · simp [unescStep]

/-- An unescaper step never leaves both flags set (10_state R22, R23). -/
theorem unescStep_inv (p : Policy) (u : UnescState) (b : Byte) : (unescStep p u b).next.Inv := by
  rcases unescStep_cases p u b with ⟨-, h⟩ | ⟨-, -, -, h⟩ | ⟨-, -, -, h⟩ | ⟨-, -, -, h⟩ | ⟨-, -, -, h⟩ <;>
    simp [h, UnescState.Inv]

/-- Neither does the end of a sequence. -/
theorem unescEnd_inv (u : UnescState) : (unescEnd u).1.Inv := by
  simp [unescEnd, unescEndState, UnescState.Inv]

end Sys2Proof.Machine
end

