-- ==== Sys2Proof/Laws/PerInstr.lean ====
section
/-! SUPPORT. One statement per command about its word (spec/30_encoding.md R60, R63): the opcode is neither of the two
illegal ones and the reserved field `z` is 0. -/

namespace Sys2Proof.Laws

/-- The opcode field of a word built from an opcode and an operand. -/
theorem commandWord_op (op : Nibble) (a : Byte) : opField (commandWord op a) = op := by
  apply BitVec.eq_of_getLsbD_eq
  intro k hk
  have h1 : ¬(12 + k < 8) := by omega
  have h2 : ¬(12 + k - 8 < 4) := by omega
  have h3 : 12 + k - 8 - 4 = k := by omega
  simp only [opField, commandWord, BitVec.getLsbD_extractLsb', BitVec.getLsbD_append, hk, h1, h2, h3]
  simp

/-- Its reserved field is 0. -/
theorem commandWord_z (op : Nibble) (a : Byte) : zField (commandWord op a) = 0#4 := by
  apply BitVec.eq_of_getLsbD_eq
  intro k hk
  have h1 : ¬(8 + k < 8) := by omega
  have h2 : 8 + k - 8 < 4 := by omega
  simp only [zField, commandWord, BitVec.getLsbD_extractLsb', BitVec.getLsbD_append, hk, h1, h2]
  simp

/-- Its operand field is the operand. -/
theorem commandWord_a (op : Nibble) (a : Byte) : aField (commandWord op a) = a := by
  apply BitVec.eq_of_getLsbD_eq
  intro k hk
  have h1 : 0 + k < 8 := by omega
  simp only [aField, commandWord, BitVec.getLsbD_extractLsb', BitVec.getLsbD_append, hk, h1]
  simp

theorem commandWord_fields (op : Nibble) (a : Byte) (h0 : op ≠ 0x0#4) (hF : op ≠ 0xF#4) :
    opField (commandWord op a) ≠ 0x0#4 ∧ opField (commandWord op a) ≠ 0xF#4 ∧ zField (commandWord op a) = 0#4 := by
  rw [commandWord_op]
  exact ⟨h0, hF, commandWord_z op a⟩

/-- The word of a command has a legal opcode and a zero `z` field. -/
def OpcodeField.Statement (i : Instr) : Prop :=
  opField (encode i) ≠ 0x0#4 ∧ opField (encode i) ≠ 0xF#4 ∧ zField (encode i) = 0#4

theorem OpcodeField.rxb (d : Byte) : OpcodeField.Statement (.rxb d) := by
  simp only [OpcodeField.Statement, encode]
  exact commandWord_fields _ _ (by decide) (by decide)

theorem OpcodeField.rxend : OpcodeField.Statement (.rxend) := by
  simp only [OpcodeField.Statement, encode]
  exact commandWord_fields _ _ (by decide) (by decide)

theorem OpcodeField.rxrst : OpcodeField.Statement (.rxrst) := by
  simp only [OpcodeField.Statement, encode]
  exact commandWord_fields _ _ (by decide) (by decide)

theorem OpcodeField.dfeed (d : Byte) : OpcodeField.Statement (.dfeed d) := by
  simp only [OpcodeField.Statement, encode]
  exact commandWord_fields _ _ (by decide) (by decide)

theorem OpcodeField.txb (d : Byte) : OpcodeField.Statement (.txb d) := by
  simp only [OpcodeField.Statement, encode]
  exact commandWord_fields _ _ (by decide) (by decide)

theorem OpcodeField.txsend : OpcodeField.Statement (.txsend) := by
  simp only [OpcodeField.Statement, encode]
  exact commandWord_fields _ _ (by decide) (by decide)

theorem OpcodeField.txclr : OpcodeField.Statement (.txclr) := by
  simp only [OpcodeField.Statement, encode]
  exact commandWord_fields _ _ (by decide) (by decide)

theorem OpcodeField.escb (d : Byte) : OpcodeField.Statement (.escb d) := by
  simp only [OpcodeField.Statement, encode]
  exact commandWord_fields _ _ (by decide) (by decide)

theorem OpcodeField.escend : OpcodeField.Statement (.escend) := by
  simp only [OpcodeField.Statement, encode]
  exact commandWord_fields _ _ (by decide) (by decide)

theorem OpcodeField.unescb (d : Byte) : OpcodeField.Statement (.unescb d) := by
  simp only [OpcodeField.Statement, encode]
  exact commandWord_fields _ _ (by decide) (by decide)

theorem OpcodeField.unescend : OpcodeField.Statement (.unescend) := by
  simp only [OpcodeField.Statement, encode]
  exact commandWord_fields _ _ (by decide) (by decide)

theorem OpcodeField.rdreg (r : Byte) : OpcodeField.Statement (.rdreg r) := by
  simp only [OpcodeField.Statement, encode]
  exact commandWord_fields _ _ (by decide) (by decide)

theorem OpcodeField.errclr (m : Nibble) : OpcodeField.Statement (.errclr m) := by
  simp only [OpcodeField.Statement, encode]
  exact commandWord_fields _ _ (by decide) (by decide)

theorem OpcodeField.srst : OpcodeField.Statement (.srst) := by
  simp only [OpcodeField.Statement, encode]
  exact commandWord_fields _ _ (by decide) (by decide)

end Sys2Proof.Laws
end

