-- ==== Sys2Proof/Tests/Slice0.lean ====
section
/-! SUPPORT. The model's own tests. Expected results come from spec/95_test_vectors.md, from the word patterns of
spec/30_encoding.md R63, or by hand from the rules named; each test is one step on a small state. After them, one witness per
statement with hypotheses: a state and operands that meet all of them. -/

open Sys2Proof Sys2Proof.Machine Sys2Proof.Claims

namespace Sys2Proof.Tests

/-- The outcome is a next state with the given property. -/
def gives (o : Host.Outcome State Fault Refusal) (p : State → Bool) : Bool :=
  match o with
  | .next t => p t
  | .fault _ => false
  | .refused _ => false

/-- The reset state with the decoder in a given state. -/
def withDec (d : DecState) : State := { State.reset with dec := d }

/-- After the wire bytes 7E 00 02 41: one payload byte of two is in (vector RXP5). -/
def midPayload : DecState := { mode := .readingPayload, len := 2#16, remain := 1#16, sum := 0x41#24, buf := [0x41#8] }

/-- After 7E 00 02: no payload byte yet. -/
def startPayload : DecState := { mode := .readingPayload, len := 2#16, remain := 2#16, sum := 0#24, buf := [] }

/-- After 7E 00 02 41 42: the checksum is due (program P2). -/
def atChecksum : DecState := { mode := .readingChecksum, len := 2#16, remain := 0#16, sum := 0x83#24, buf := [0x41#8, 0x42#8] }

/-- After 7E 7E: the high length byte is in (vector DEC4). -/
def atLengthLsb : DecState := { mode := .readingLengthLsb, len := 0x7E00#16, remain := 0#16, sum := 0#24, buf := [] }

/-- After 7E. -/
def atLengthMsb : DecState := { mode := .readingLengthMsb, len := 0#16, remain := 0#16, sum := 0#24, buf := [] }

/-- A marker is pending in the RX unescaper. -/
def rxPending : State := { State.reset with rxu := { first := false, pend := true } }

/-- A marker is pending in the standalone unescaper. -/
def xPending : State := { State.reset with xu := { first := false, pend := true } }

/-- The payload is poisoned. -/
def txPoisoned : State := { State.reset with tx := { buf := List.replicate 65535 0xAA#8, poison := true } }

/-! ## WellFormed and decode (30_encoding R61, R63, R64) -/

theorem test_wellFormed_rdreg_5 : (Instr.rdreg 5#8).WellFormed := by decide
theorem test_illFormed_rdreg_6 : ¬(Instr.rdreg 6#8).WellFormed := by decide
theorem test_illFormed_rdreg_255 : ¬(Instr.rdreg 255#8).WellFormed := by decide

theorem test_decode_rxb : decode 0b0001000001111110#16 = .ok (.rxb 0x7E#8) := rfl
theorem test_decode_rxend : decode 0b0010000000000000#16 = .ok .rxend := rfl
theorem test_decode_rxrst : decode 0b0011000000000000#16 = .ok .rxrst := rfl
theorem test_decode_dfeed : decode 0b0100000000000001#16 = .ok (.dfeed 0x01#8) := rfl
theorem test_decode_txb : decode 0b0101000011111111#16 = .ok (.txb 0xFF#8) := rfl
theorem test_decode_txsend : decode 0b0110000000000000#16 = .ok .txsend := rfl
theorem test_decode_txclr : decode 0b0111000000000000#16 = .ok .txclr := rfl
theorem test_decode_escb : decode 0b1000000001111101#16 = .ok (.escb 0x7D#8) := rfl
theorem test_decode_escend : decode 0b1001000000000000#16 = .ok .escend := rfl
theorem test_decode_unescb : decode 0b1010000001011110#16 = .ok (.unescb 0x5E#8) := rfl
theorem test_decode_unescend : decode 0b1011000000000000#16 = .ok .unescend := rfl
theorem test_decode_rdreg : decode 0b1100000000000101#16 = .ok (.rdreg 5#8) := rfl
theorem test_decode_errclr : decode 0b1101000000001010#16 = .ok (.errclr 0xA#4) := rfl
theorem test_decode_srst : decode 0b1110000000000000#16 = .ok .srst := rfl

/-- Vector CTL2, each word by its reason. -/
theorem test_decode_illegal :
    decode 0x0000#16 = .error .reservedOpcode ∧ decode 0x0FFF#16 = .error .reservedField ∧
    decode 0xF000#16 = .error .reservedOpcode ∧ decode 0x1100#16 = .error .reservedField ∧
    decode 0x2001#16 = .error .operandNotZero ∧ decode 0xE001#16 = .error .operandNotZero ∧
    decode 0xC006#16 = .error .registerNumber ∧ decode 0xD010#16 = .error .maskReserved := ⟨rfl, rfl, rfl, rfl, rfl, rfl, rfl, rfl⟩

/-- The words of program P1's listing. -/
theorem test_encode : encode (.txb 0x7E#8) = 0x507E#16 ∧ encode .txsend = 0x6000#16 ∧ encode (.rxb 0x2F#8) = 0x102F#16 ∧
    encode (.errclr 0xF#4) = 0xD00F#16 := by decide

theorem test_decodeTableWord : decodeTableWord 16 0xC003 = some (.rdreg 3#8) ∧ decodeTableWord 16 0xC006 = none := by decide

/-! ## The policy (00_scope R8) -/

theorem test_policy_default : Policy.build Config.policyFields = .ok Config.policy := rfl

theorem test_policy_without_marker :
    Policy.build { marker := 0x7D#8, mask := 0x20#8, reserved := [0x7E#8] } = .error .markerNotReserved := rfl

theorem test_policy_without_delim :
    Policy.build { marker := 0x7D#8, mask := 0x20#8, reserved := [0x7D#8] } = .error .delimNotReserved := rfl

theorem test_policy_pair_is_delim :
    Policy.build { marker := 0x7D#8, mask := 0x03#8, reserved := [0x7D#8, 0x7E#8] } = .error .escapedByteIsDelim := rfl

/-! ## The step -/

/-- The first word after reset runs: RXB 0x7E leaves STATUS 0x0000C1 (95_test_vectors 1.1). -/
theorem test_step_from_reset :
    gives (step (State.reset.withFetchWord 16 0x107E)) (fun t => statusWord t = 0x0000C1#24 ∧ t.input = []) = true := by decide

/-- Vector CTL2: word 0000 sets ILLEGAL and answers the 28-bit word 0x1000000. -/
theorem test_step_illegal :
    gives (step (State.reset.withFetchWord 16 0x0000))
      (fun t => t.err = 0x8#4 ∧ t.resp.map Response.word = [0x1000000#28] ∧ t.out.length = 1) = true := by decide

theorem test_step_waits : gives (step State.reset) (fun t => t = State.reset) = true := by decide

/-- `rst` between two commands (10_state R35): the decoder, the flags and the TX payload are back at reset, the words behind it stay. -/
theorem test_step_rst :
    gives (step { withDec midPayload with err := 0xF#4, tx := { buf := [1#8], poison := false }, input := [.rst, .command 0xE000#16] })
      (fun t => t = { State.reset with input := [.command 0xE000#16] }) = true := by decide

/-! ## One or two tests per command -/

/-- Vector RXP2, its fifth byte: DESYNC, then MISMATCH, then the response. -/
theorem test_rxb_desync_and_mismatch :
    gives (exec (.rxb 0x7E#8) { rxPending with dec := { mode := .readingChecksum, len := 0#16, remain := 0#16, sum := 0#24, buf := [] } })
      (fun t => t.out = [.rxev .desync, .rxev (.mismatch 0#16 [] 0#24 0x7E#8), .resp { status := .escapeDesync, value := 0#24 }] ∧
        t.err = 0x3#4) = true := by decide

/-- Vector RXP13: an escaped checksum byte 7D 31 is 11. -/
theorem test_rxb_unmasks :
    gives (exec (.rxb 0x31#8) { rxPending with dec := { mode := .readingChecksum, len := 1#16, remain := 0#16, sum := 0x11#24, buf := [0x11#8] } })
      (fun t => t.rxev = [.mismatch 1#16 [0x11#8] 0x11#24 0x11#8]) = true := by decide

/-- Vector RXP5: RXEND with a pending marker. -/
theorem test_rxend_pending :
    gives (exec .rxend { rxPending with dec := midPayload })
      (fun t => t.rxev = [.desync] ∧ t.dec = midPayload ∧ t.rxu = { first := true, pend := false } ∧ t.err = 0x2#4) = true := by decide

/-- Vector RXP15. -/
theorem test_rxend_nothing_pending :
    gives (exec .rxend State.reset) (fun t => t.out = [.resp { status := .ok, value := 0#24 }] ∧ t.err = 0#4) = true := by decide

/-- 44_manager R110: after RXRST in mid-frame STATUS is its reset value. -/
theorem test_rxrst : gives (exec .rxrst { rxPending with dec := midPayload }) (fun t => statusWord t = 0x0000D0#24 ∧ t.rxev = []) = true := by
  decide

/-- Program P2, its good frame: 0x83 + 0x7C = 0xFF. -/
theorem test_dfeed_accept :
    gives (exec (.dfeed 0x7C#8) (withDec atChecksum)) (fun t => t.rxev = [.accept [0x41#8, 0x42#8]] ∧ t.err = 0#4) = true := by decide

/-- Vector DEC1's last length byte: a zero length goes straight to the checksum. -/
theorem test_dfeed_length_zero :
    gives (exec (.dfeed 0x00#8) (withDec { atLengthLsb with len := 0#16 })) (fun t => t.dec.mode = .readingChecksum) = true := by decide

theorem test_txb_appends :
    gives (exec (.txb 0x08#8) State.reset) (fun t => t.tx.buf = [0x08#8] ∧ t.resp = [{ status := .ok, value := 0#24 }]) = true := by decide

/-- 95_test_vectors 2.3, payload overflow, item 2: the byte after the 65535th. -/
theorem test_txb_overflow (bs : List Byte) (h : bs.length = 65535) :
    ∃ t, exec (.txb 0xAA#8) { State.reset with tx := { buf := bs, poison := false } } = .next t ∧
      t.tx = { buf := bs, poison := true } ∧ t.err = 0x4#4 :=
  ⟨_, if_pos h, rfl, show setFlag .precond 0#4 = 0x4#4 by decide⟩

/-- Vector ENC7: a reserved checksum is escaped, and `last`, bit 8 of a beat by log entry 14, is on its second byte. -/
theorem test_txsend :
    gives (exec .txsend { State.reset with tx := { buf := [0xEC#8], poison := false } })
      (fun t => t.txout.map TxByte.beat = [0x07E#9, 0x000#9, 0x001#9, 0x0EC#9, 0x07D#9, 0x133#9] ∧ t.tx.buf = []) = true := by decide

/-- 95_test_vectors 2.3, payload overflow, item 5. -/
theorem test_txsend_poisoned :
    gives (exec .txsend { State.reset with tx := { buf := [1#8], poison := true } })
      (fun t => t.txout = [] ∧ t.tx = { buf := [], poison := false } ∧ t.err = 0x4#4) = true := by decide

theorem test_txclr :
    gives (exec .txclr { State.reset with tx := { buf := [1#8], poison := true }, err := 0x4#4 })
      (fun t => t.tx = { buf := [], poison := false } ∧ t.err = 0x4#4) = true := by decide

/-- Vector ESC2: 13 after a first byte is 7D 33. -/
theorem test_escb_reserved : gives (exec (.escb 0x13#8) { State.reset with xeFirst := false }) (fun t => t.xout = [0x7D#8, 0x33#8]) = true := by
  decide

/-- Vector ESC1: the first byte passes even when it is reserved. -/
theorem test_escb_first : gives (exec (.escb 0x7D#8) State.reset) (fun t => t.xout = [0x7D#8] ∧ t.xeFirst = false) = true := by decide

theorem test_escend : gives (exec .escend { State.reset with xeFirst := false }) (fun t => t.xeFirst = true) = true := by decide

/-- Vector ESC6: 7D 41 is 61, with no check that 61 was reserved. -/
theorem test_unescb_unmasks : gives (exec (.unescb 0x41#8) xPending) (fun t => t.xout = [0x61#8] ∧ t.err = 0#4) = true := by decide

/-- Vector ESC5: a marker before DELIM. -/
theorem test_unescb_desync :
    gives (exec (.unescb 0x7E#8) xPending)
      (fun t => t.xout = [0x7E#8] ∧ t.err = 0x2#4 ∧ t.rxev = [] ∧ t.resp = [{ status := .escapeDesync, value := 0#24 }]) = true := by decide

/-- Vector ESC4. -/
theorem test_unescend :
    gives (exec .unescend xPending) (fun t => t.xout = [] ∧ t.err = 0x2#4 ∧ t.xu = { first := true, pend := false }) = true := by decide

/-- Vector CTL5: STATUS 0x0000C9. -/
theorem test_rdreg_status :
    gives (exec (.rdreg 0#8) { rxPending with dec := atLengthMsb }) (fun t => t.resp = [{ status := .ok, value := 0x0000C9#24 }]) = true := by
  decide

/-- 95_test_vectors 1.2: DSUM is the raw sum 0x10F. -/
theorem test_rdreg_dsum :
    gives (exec (.rdreg 3#8) (withDec { atChecksum with sum := 0x10F#24 })) (fun t => t.resp = [{ status := .ok, value := 0x10F#24 }]) = true := by
  decide

/-- 45_control R115, its example. -/
theorem test_errclr : gives (exec (.errclr 1#4) { State.reset with err := 0b0011#4 }) (fun t => t.err = 0b0010#4) = true := by decide

theorem test_srst :
    gives (exec .srst { rxPending with dec := midPayload, err := 0xF#4 })
      (fun t => t = { State.reset with out := [.resp { status := .ok, value := 0#24 }] }) = true := by decide

/-! ## Pure functions, packing, text -/

/-- Some rows of the truth table of 95_test_vectors 2.2. -/
theorem test_valid : valid 0x00010F#24 0xF0#8 = true ∧ valid 0x00010F#24 0x0F#8 = false ∧ valid 0x000100#24 0xFF#8 = true ∧
    valid 0xFEFF01#24 0xFE#8 = true ∧ valid 0xFEFF01#24 0x01#8 = false := by decide

/-- Vector ENC3: the checksum of 11 13 7D 7E is E0. -/
theorem test_csumGen : csumGen [0x11#8, 0x13#8, 0x7D#8, 0x7E#8] = 0xE0#8 := by decide

/-- Vector RXP2's beats, as the words the model packs the tuples into (log entry 14). -/
theorem test_beats : RxEvent.beats (.mismatch 0#16 [] 0#24 0x7E#8) =
    [0b01000000000#11, 0b01000000000#11, 0b01000000000#11, 0b01000000000#11, 0b01000000000#11, 0b01101111110#11] ∧
    RxEvent.beats .desync = [0b10100000000#11] := by decide

/-- 30_encoding R71: its example `RDREG DSUM`, with a listing's word and a comment. -/
theorem test_assembleLine :
    assembleLine ['C', '0', '0', '3', ' ', 'R', 'D', 'R', 'E', 'G', ' ', 'D', 'S', 'U', 'M', ' ', ';', 'x'] = some [.rdreg 3#8] := by decide

/-- 30_encoding R72: its example `RXSTREAM 7E 00 00 FF`. -/
theorem test_pseudo :
    assembleLine ['R', 'X', 'S', 'T', 'R', 'E', 'A', 'M', ' ', '7', 'E', ' ', '0', '0', ' ', '0', '0', ' ', 'F', 'F'] =
      some [.rxb 0x7E#8, .rxb 0x00#8, .rxb 0x00#8, .rxb 0xFF#8] := by decide

/-! ## Witnesses: each statement's hypotheses are met together, each clause at a boundary of its range -/

theorem witness_decodeOfEncode : (Instr.rdreg 5#8).WellFormed ∧ (Instr.rxb 0xFF#8).WellFormed := by decide
theorem witness_encodeOfDecode : decode 0xC005#16 = .ok (.rdreg 5#8) := rfl

theorem witness_illegalWord : IllegalWord 0xC006#16 ∧ IllegalWord 0xD010#16 ∧ IllegalWord 0x2001#16 ∧ IllegalWord 0x0000#16 ∧
    IllegalWord 0xF000#16 ∧ IllegalWord 0x1100#16 := by
  unfold IllegalWord
  refine ⟨?_, ?_, ?_, ?_, ?_, ?_⟩ <;> decide

theorem witness_legalWord : ¬IllegalWord 0xC005#16 ∧ ¬IllegalWord 0xD00F#16 := by
  unfold IllegalWord
  constructor <;> decide

theorem witness_stepRuns : (State.reset.withFetchWord 16 0x6000).input = .command 0x6000#16 :: [] ∧ decode 0x6000#16 = .ok .txsend :=
  ⟨rfl, rfl⟩

theorem witness_stepOnIllegal : (State.reset.withFetchWord 16 0xFFFF).input = .command 0xFFFF#16 :: [] ∧ IllegalWord 0xFFFF#16 :=
  ⟨rfl, Or.inr (Or.inl rfl)⟩

theorem witness_stepOnRst : (offerReset State.reset).input = .rst :: [] ∧ State.reset.input = [] := ⟨rfl, rfl⟩

theorem witness_everyCommand : (offer 0x5001#16 State.reset).input = .command 0x5001#16 :: [] ∧ (0x5001#16).extractLsb' 12 4 ≠ 0xC#4 := by
  decide

theorem witness_dfeedSeeking : State.reset.dec.mode = .seekingDelimiter := rfl
theorem witness_dfeedLengthBytes : (withDec atLengthMsb).dec.mode = .readingLengthMsb ∧ (withDec atLengthLsb).dec.mode = .readingLengthLsb :=
  ⟨rfl, rfl⟩

theorem inv_withDec {d : DecState} (h : d.Inv) : (withDec d).Inv := by
  refine ⟨h, ?_, ?_, ?_⟩ <;> simp [withDec, State.reset, UnescState.reset, UnescState.Inv, TxState.reset, TxState.Inv]

/-- The last payload byte due, and one before the last. -/
theorem witness_dfeedPayload :
    ((withDec midPayload).Inv ∧ (withDec midPayload).dec.mode = .readingPayload) ∧
    ((withDec startPayload).Inv ∧ (withDec startPayload).dec.mode = .readingPayload) :=
  ⟨⟨inv_withDec ⟨by decide, by decide, by decide, by decide⟩, rfl⟩, ⟨inv_withDec ⟨by decide, by decide, by decide, by decide⟩, rfl⟩⟩

theorem witness_dfeedChecksum : (withDec atChecksum).dec.mode = .readingChecksum := rfl

/-- The empty payload and one of a single byte. -/
theorem witness_decoderFrame : decReset.mode = .seekingDelimiter ∧ ([] : List Byte).length = (0#8).toNat * 256 + (0#8).toNat ∧
    [0x7E#8].length = (0#8).toNat * 256 + (1#8).toNat := by decide

theorem witness_noise : decReset.mode = .seekingDelimiter ∧ ∀ b ∈ [0x7D#8, 0x7F#8, 0x00#8], b ≠ 0x7E#8 := by decide

/-- A state and a byte for each clause of RxbUnescapesThenDecodes, the bytes next to the clause's bound among them. -/
theorem witness_rxb :
    State.reset.rxu.first = true ∧
    (({ State.reset with rxu := { first := false, pend := false } } : State).rxu.first = false ∧
      ({ State.reset with rxu := { first := false, pend := false } } : State).rxu.pend = false ∧
      (0x7C#8 : Byte) ≠ 0x7D#8 ∧ (0x7E#8 : Byte) ≠ 0x7D#8) ∧
    (rxPending.rxu.first = false ∧ rxPending.rxu.pend = true ∧ (0x7D#8 : Byte) ≠ 0x7E#8 ∧ (0x7F#8 : Byte) ≠ 0x7E#8) := by decide

theorem witness_rxbDesync :
    ({ rxPending with dec := atChecksum } : State).rxu.first = false ∧ ({ rxPending with dec := atChecksum } : State).rxu.pend = true ∧
    ({ rxPending with dec := atChecksum } : State).dec.mode = .readingChecksum ∧
    ({ rxPending with dec := atChecksum } : State).dec.sum.toNat % 256 ≠ 0x81 := by decide

theorem witness_oneChecksum : (0x0000FF#24 : Word24).toNat % 256 = (0xFEFFFF#24 : Word24).toNat % 256 := by decide

theorem inv_reset : State.reset.Inv := inv_withDec (d := DecState.reset) ⟨rfl, rfl, rfl, rfl⟩

/-- The state after TXB 0x7E from reset meets the premises of both round-trip statements, for the payload it holds. -/
theorem witness_roundTrip :
    let s : State := { State.reset with tx := { buf := [0x7E#8], poison := false } }
    s.Inv ∧ s.tx.poison = false ∧ s.tx.buf = [0x7E#8] ∧ s.tx.buf.length ≤ 65535 ∧ s.dec.mode = .seekingDelimiter ∧ s.rxu.pend = false :=
  ⟨⟨inv_reset.1, inv_reset.2.1, inv_reset.2.2.1, by simp [TxState.Inv, Config.txBufCap]⟩, rfl, rfl, by decide, rfl, rfl⟩

theorem witness_noiseAround : [0x41#8].length ≤ 65535 ∧ ∀ b ∈ [0x01#8, 0x02#8, 0x03#8] ++ [0x03#8, 0x7F#8], b ≠ 0x7E#8 ∧ b ≠ 0x7D#8 := by
  decide

/-- The longest payload EncodedFrameLayout, EscapedFrameHasNoInnerDelimiter and RoundTripDeliversThePayload speak of. -/
theorem witness_longestPayload : ∃ payload : List Byte, payload.length = 65535 :=
  ⟨List.replicate 65535 0x7E#8, List.length_replicate⟩

theorem witness_poisoned : txPoisoned.tx.poison = true ∧
    Instr.txb 1#8 ≠ .txsend ∧ Instr.txb 1#8 ≠ .txclr ∧ Instr.txb 1#8 ≠ .srst := ⟨rfl, nofun, nofun, nofun⟩

/-- Fields other than the default that R8 admits, and fields that break each constraint alone. -/
theorem witness_policies :
    PolicyFields.Admitted { marker := 0x1B#8, mask := 0x40#8, reserved := [0x1B#8, 0x7E#8] } ∧
    ¬PolicyFields.Admitted { marker := 0x7D#8, mask := 0x20#8, reserved := [0x7E#8] } ∧
    ¬PolicyFields.Admitted { marker := 0x7D#8, mask := 0x20#8, reserved := [0x7D#8] } ∧
    ¬PolicyFields.Admitted { marker := 0x7D#8, mask := 0x03#8, reserved := [0x7D#8, 0x7E#8] } := by decide

theorem witness_standaloneRuns : State.reset.xeFirst = true ∧ State.reset.xu.first = true ∧ State.reset.xu.pend = false := ⟨rfl, rfl, rfl⟩

theorem witness_rdregReads : (5#8 : Byte).toNat ≤ 5 := by decide

theorem inv_poisoned : txPoisoned.tx.Inv ∧ txPoisoned.tx.poison = true :=
  ⟨⟨List.length_replicate.le, fun _ => List.length_replicate⟩, rfl⟩

theorem witness_rdregAboveFive : 5 < (6#8 : Byte).toNat ∧ 5 < (255#8 : Byte).toNat := by decide

theorem witness_flags : (∀ m, Instr.rxend ≠ .errclr m) ∧ Instr.rxend ≠ .srst ∧
    gives (exec .rxend { rxPending with err := 0x8#4 }) (fun t => t.err = 0xA#4) = true := ⟨nofun, nofun, by decide⟩

/-- A next state of a command of each path, and of a control command, for each clause of the frames. -/
theorem witness_frames :
    (pathOf (.rxb 1#8) = some .rx ∧ gives (exec (.rxb 1#8) State.reset) (fun _ => true) = true) ∧
    (pathOf .rxend = some .rx ∧ gives (exec .rxend rxPending) (fun _ => true) = true) ∧
    (pathOf (.dfeed 1#8) = some .rx ∧ gives (exec (.dfeed 1#8) State.reset) (fun _ => true) = true) ∧
    (pathOf .txsend = some .tx ∧ gives (exec .txsend State.reset) (fun _ => true) = true) ∧
    (pathOf (.txb 1#8) = some .tx ∧ Instr.txb 1#8 ≠ .txsend ∧ gives (exec (.txb 1#8) State.reset) (fun _ => true) = true) ∧
    (pathOf (.escb 1#8) = some .standalone ∧ gives (exec (.escb 1#8) State.reset) (fun _ => true) = true) ∧
    (pathOf (.unescb 1#8) = some .standalone ∧ gives (exec (.unescb 1#8) State.reset) (fun _ => true) = true) ∧
    (pathOf (.rdreg 5#8) = none ∧ (Instr.rdreg 5#8).WellFormed ∧ gives (exec (.rdreg 5#8) State.reset) (fun _ => true) = true) ∧
    (pathOf (.errclr 1#4) = none ∧ gives (exec (.errclr 1#4) State.reset) (fun _ => true) = true) := by decide

theorem witness_idempotent : Instr.errclr 0xF#4 = .errclr 0xF#4 ∧ Instr.unescend = .unescend := ⟨rfl, rfl⟩

theorem witness_pathsIndependent : pathOf (.rxb 0x7E#8) = some .rx ∧ pathOf (.unescb 0x7E#8) = some .standalone ∧ Path.rx ≠ Path.standalone := by
  decide

/-- A step from a state that meets the invariant and whose log is honest: RXB 0x7E after reset. -/
theorem witness_stepKeeps : (State.reset.withFetchWord 16 0x107E).Inv ∧ (State.reset.withFetchWord 16 0x107E).RxevHonest ∧
    gives (step (State.reset.withFetchWord 16 0x107E)) (fun t => t.dec.mode = .readingLengthMsb) = true :=
  ⟨inv_reset, by simp [State.RxevHonest, State.rxev, State.withFetchWord, putNextWord, State.reset, rxevOf], by decide⟩

theorem witness_buffers : (withDec atChecksum).Inv := inv_withDec ⟨by decide, by decide, by decide⟩

theorem witness_beats : RxEvent.beats (.accept [0x41#8]) = RxEvent.beats (.accept [0x41#8]) := rfl

end Sys2Proof.Tests
end

section
/-! Which fields become a policy (spec/00_scope.md R8). -/

open Sys2Proof Sys2Proof.Machine

namespace Sys2Proof.Proofs

theorem exists_build_eq_ok {f : PolicyFields} (h : f.Admitted) :
    ∃ p : Policy, Policy.build f = .ok p ∧ p.toPolicyFields = f := by
  obtain ⟨_, hok⟩ | ⟨hn, -⟩ := build_cases f
  · exact ⟨_, hok, rfl⟩
  · exact absurd h hn

theorem exists_build_eq_error {f : PolicyFields} (h : ¬f.Admitted) :
    ∃ e : PolicyRefusal, Policy.build f = .error e := by
  obtain ⟨ha, -⟩ | ⟨-, herr⟩ := build_cases f
  · exact absurd ha h
  · exact herr

/-- Building loses nothing: a policy is the one its own fields build. -/
@[simp] theorem build_toPolicyFields (p : Policy) : Policy.build p.toPolicyFields = .ok p := by
  obtain ⟨_, hok⟩ | ⟨hn, -⟩ := build_cases p.toPolicyFields
  · exact hok
  · exact absurd p.admitted hn

/-- Settles O60: the two outcomes of `build_cases` for offered fields, the proof every policy carries, and the default policy
rebuilt from its own fields. -/
theorem policiesOutsideTheConstraintsAreRefused : Obligations.PoliciesOutsideTheConstraintsAreRefused := by
  unfold Obligations.PoliciesOutsideTheConstraintsAreRefused
  refine ⟨fun f => ⟨exists_build_eq_ok, exists_build_eq_error⟩, fun p => p.admitted, ?default, ?masked⟩
  case default => exact build_toPolicyFields Config.policy
  case masked => decide

end Sys2Proof.Proofs
end

section
/-! What the step does with the oldest input, and what any command does before its response: the input and the log
(spec/10_state.md R29, R30, R34; spec/45_control.md R118) and the sticky flags (R27). -/

open Sys2Proof Sys2Proof.Machine

namespace Sys2Proof.Proofs

/-! The step, by its oldest input. -/

theorem step_of_no_input {s : State} (h : s.input = []) : step s = .next s := by
  simp [step, stepState, takeInput, h]

theorem step_of_input {s : State} {i : HostInput} {rest : List HostInput} (h : s.input = i :: rest) :
    step s = stepInput i { s with input := rest } := by
  simp [step, stepState, takeInput, h]

/-- The block waits, applies a reset pulse, or takes a command word (45_control R118). -/
theorem step_cases (s : State) :
    (s.input = [] ∧ step s = .next s) ∨
    (∃ rest, s.input = .rst :: rest ∧ step s = .next (resetState { s with input := rest })) ∨
    (∃ w rest, s.input = .command w :: rest ∧ step s = stepWord w { s with input := rest }) := by
  match h : s.input with
  | [] => exact .inl ⟨rfl, step_of_no_input h⟩
  | .rst :: rest => exact .inr (.inl ⟨rest, rfl, step_of_input h⟩)
  | .command w :: rest => exact .inr (.inr ⟨w, rest, rfl, step_of_input h⟩)

/-- A word is a legal command, executed, or has the effect of 45_control R117. -/
theorem stepWord_cases (w : CmdWord) (s : State) :
    (∃ i, decode w = .ok i ∧ stepWord w s = exec i s) ∨ stepWord w s = .next (illegalCommand s) := by
  unfold stepWord
  cases decode w with
  | ok i => exact .inl ⟨i, rfl, rfl⟩
  | error e => exact .inr rfl

@[simp] theorem decodeNoOperand_eq_ok {a : Byte} {i j : Instr} : decodeNoOperand a i = .ok j ↔ a = 0#8 ∧ i = j := by
  unfold decodeNoOperand
  split <;> simp [*]

/-- Only opcode 0xC is RDREG's (30_encoding R63). -/
theorem opField_of_decode_rdreg {w : CmdWord} {r : Byte} (h : decode w = .ok (.rdreg r)) : opField w = 0xC#4 := by
  unfold decode decodeOp at h
  split at h
  case isFalse => cases h
  case isTrue =>
    split at h
    case h_12 hop => exact BitVec.eq_of_toNat_eq hop
    case h_13 => split at h <;> cases h
    all_goals simp at h

/-! The commands with branches. -/

/-- The three cases of TXB (42_encoder R90). -/
theorem execTxb_cases (d : Byte) (s : State) :
    (s.tx.poison = true ∧
      execTxb d s = .next (respond .preconditionViolation 0#24 (report .preconditionViolation s))) ∨
    (s.tx.buf.length = Config.txBufCap ∧
      execTxb d s = .next (respond .preconditionViolation 0#24
        (report .preconditionViolation { s with tx := { s.tx with poison := true } }))) ∨
    (s.tx.poison = false ∧ s.tx.buf.length ≠ Config.txBufCap ∧
      execTxb d s = .next (respond .ok 0#24 { s with tx := { s.tx with buf := s.tx.buf ++ [d] } })) := by
  unfold execTxb
  by_cases hp : s.tx.poison = true
  · simp [hp]
  · by_cases hl : s.tx.buf.length = Config.txBufCap <;> simp [hp, hl]

/-- The two cases of TXSEND (42_encoder R91). -/
theorem execTxsend_cases (s : State) :
    (s.tx.poison = true ∧
      execTxsend s = .next (respond .preconditionViolation 0#24
        (report .preconditionViolation { s with tx := { buf := [], poison := false } }))) ∨
    (s.tx.poison = false ∧
      execTxsend s = .next (respond .ok 0#24
        (emit ((txRecords (escape Config.policy (encodeFrame s.tx.buf))).map .txout)
          { s with tx := { buf := [], poison := false } }))) := by
  unfold execTxsend
  cases h : s.tx.poison <;> simp [emit, h]

/-- RDREG answers a register's value, or does what an illegal word does (45_control R114; log entry 6). -/
theorem execRdreg_cases (r : Byte) (s : State) :
    (∃ v, execRdreg r s = .next (respond .ok v s)) ∨ execRdreg r s = .next (illegalCommand s) := by
  unfold execRdreg
  cases Reg.ofNumber r with
  | some g => exact .inl ⟨_, rfl⟩
  | none => exact .inr rfl

/-! Before the response. -/

/-- From `s` to `t` the input is untouched, only records that are no response are emitted, and no flag is cleared. -/
structure Extends (s t : State) : Prop where
  input : t.input = s.input
  out : ∃ recs, t.out = s.out ++ recs ∧ respOf recs = []
  flags : ∀ k, s.err.getLsbD k = true → t.err.getLsbD k = true

namespace Extends

variable {s t : State}

theorem of_eq (hi : t.input = s.input) (ho : t.out = s.out) (he : t.err = s.err) : Extends s t :=
  ⟨hi, ⟨[], by simp [ho], rfl⟩, fun k hk => by rw [he]; exact hk⟩

theorem emit {os : List Output} (h : Extends s t) (hos : respOf os = []) : Extends s (emit os t) := by
  obtain ⟨recs, hout, hrecs⟩ := h.out
  exact ⟨h.input, ⟨recs ++ os, by rw [emit_out, hout, List.append_assoc], by simp [hrecs, hos]⟩, h.flags⟩

theorem report {r : Report} (h : Extends s t) : Extends s (report r t) := by
  have hrecs : respOf r.records = [] := by cases r <;> rfl
  exact ⟨h.input, (h.emit hrecs).out, fun k hk => by simp [setFlag_getLsbD, h.flags k hk]⟩

theorem reportIf {c : Bool} {r : Report} (h : Extends s t) : Extends s (reportIf c r t) := by
  cases c with
  | false => exact h
  | true => exact h.report

theorem complete {f : Frame} (h : Extends s t) : Extends s (complete f t) := by
  unfold Machine.complete
  split
  · exact h.emit rfl
  · exact h.report

theorem completeAny {o : Option Frame} (h : Extends s t) : Extends s (completeAny o t) := by
  cases o with
  | none => exact h
  | some f => exact h.complete

theorem feedDecoder {b : Byte} (h : Extends s t) : Extends s (feedDecoder b t) :=
  have hdec : Extends s { t with dec := (decFeed t.dec b).1 } := ⟨h.input, h.out, h.flags⟩
  hdec.completeAny

theorem feedDecoderAny {o : Option Byte} (h : Extends s t) : Extends s (feedDecoderAny o t) := by
  cases o with
  | none => exact h
  | some b => exact h.feedDecoder

end Extends

/-- ERRCLR and SRST, the only commands that may clear a flag. -/
def ClearsFlags (i : Instr) : Prop := (∃ m, i = .errclr m) ∨ i = .srst

/-- Before its response a command extends the state; only ERRCLR and SRST clear flags instead, and they emit nothing. -/
def Body (i : Instr) (s u : State) : Prop :=
  Extends s u ∨ (ClearsFlags i ∧ u.input = s.input ∧ u.out = s.out)

theorem Body.input {i : Instr} {s u : State} (h : Body i s u) : u.input = s.input := by
  obtain h | ⟨-, h, -⟩ := h
  · exact h.input
  · exact h

theorem Body.out {i : Instr} {s u : State} (h : Body i s u) : ∃ recs, u.out = s.out ++ recs ∧ respOf recs = [] := by
  obtain h | ⟨-, -, h⟩ := h
  · exact h.out
  · exact ⟨[], by simp [h], rfl⟩

/-- What every command does: its body, then one response, whose value is 0 unless the command is RDREG (10_state R30). -/
theorem exec_eq_respond (i : Instr) (s : State) :
    ∃ st v u, exec i s = .next (respond st v u) ∧ Body i s u ∧ ((∀ r, i ≠ .rdreg r) → v = 0#24) := by
  cases i with
  | rxb d => exact ⟨_, _, _, rfl, .inl (.feedDecoderAny (.reportIf (.of_eq rfl rfl rfl))), fun _ => rfl⟩
  | rxend => exact ⟨_, _, _, rfl, .inl (.reportIf (.of_eq rfl rfl rfl)), fun _ => rfl⟩
  | rxrst => exact ⟨_, _, _, rfl, .inl (.of_eq rfl rfl rfl), fun _ => rfl⟩
  | dfeed d => exact ⟨_, _, _, rfl, .inl (.feedDecoder (.of_eq rfl rfl rfl)), fun _ => rfl⟩
  | txb d =>
    obtain ⟨-, h⟩ | ⟨-, h⟩ | ⟨-, -, h⟩ := execTxb_cases d s
    · exact ⟨_, _, _, h, .inl (.report (.of_eq rfl rfl rfl)), fun _ => rfl⟩
    · exact ⟨_, _, _, h, .inl (.report (.of_eq rfl rfl rfl)), fun _ => rfl⟩
    · exact ⟨_, _, _, h, .inl (.of_eq rfl rfl rfl), fun _ => rfl⟩
  | txsend =>
    obtain ⟨-, h⟩ | ⟨-, h⟩ := execTxsend_cases s
    · exact ⟨_, _, _, h, .inl (.report (.of_eq rfl rfl rfl)), fun _ => rfl⟩
    · exact ⟨_, _, _, h, .inl (.emit (.of_eq rfl rfl rfl) (respOf_map_txout _)), fun _ => rfl⟩
  | txclr => exact ⟨_, _, _, rfl, .inl (.of_eq rfl rfl rfl), fun _ => rfl⟩
  | escb d => exact ⟨_, _, _, rfl, .inl (.emit (.of_eq rfl rfl rfl) (respOf_map_xout _)), fun _ => rfl⟩
  | escend => exact ⟨_, _, _, rfl, .inl (.of_eq rfl rfl rfl), fun _ => rfl⟩
  | unescb d => exact ⟨_, _, _, rfl, .inl (.emit (.reportIf (.of_eq rfl rfl rfl)) (respOf_map_xout _)), fun _ => rfl⟩
  | unescend => exact ⟨_, _, _, rfl, .inl (.reportIf (.of_eq rfl rfl rfl)), fun _ => rfl⟩
  | rdreg r =>
    obtain ⟨v, h⟩ | h := execRdreg_cases r s
    · exact ⟨_, v, _, h, .inl (.of_eq rfl rfl rfl), fun hr => absurd rfl (hr r)⟩
    · exact ⟨_, _, _, h, .inl (.report (.of_eq rfl rfl rfl)), fun _ => rfl⟩
  | errclr m => exact ⟨_, _, _, rfl, .inr ⟨.inl ⟨m, rfl⟩, rfl, rfl⟩, fun _ => rfl⟩
  | srst => exact ⟨_, _, _, rfl, .inr ⟨.inr rfl, rfl, rfl⟩, fun _ => rfl⟩

/-- The same for a word: an illegal one reports and answers 0, and only opcode 0xC can answer another value. -/
theorem stepWord_eq_respond (w : CmdWord) (s : State) :
    ∃ st v u recs, stepWord w s = .next (respond st v u) ∧ u.input = s.input ∧ u.out = s.out ++ recs ∧ respOf recs = [] ∧
      (opField w ≠ 0xC#4 → v = 0#24) := by
  obtain ⟨i, hw, hi⟩ | hill := stepWord_cases w s
  · obtain ⟨st, v, u, hx, hbody, hv⟩ := exec_eq_respond i s
    obtain ⟨recs, hout, hrecs⟩ := hbody.out
    refine ⟨st, v, u, recs, hi.trans hx, hbody.input, hout, hrecs, fun hop => hv ?_⟩
    rintro r rfl
    exact hop (opField_of_decode_rdreg hw)
  · exact ⟨_, _, _, [], hill, rfl, rfl, rfl, fun _ => rfl⟩

/-- Settles O8: `stepWord_eq_respond` for the word the step takes. -/
theorem everyCommandEndsInOneResponse : Obligations.EveryCommandEndsInOneResponse := by
  unfold Obligations.EveryCommandEndsInOneResponse
  intro s w rest hin
  obtain ⟨st, v, u, recs, hstep, hi, ho, hrecs, hv⟩ := stepWord_eq_respond w { s with input := rest }
  refine ⟨respond st v u, recs, ⟨st, v⟩, (step_of_input hin).trans hstep, hi, ?_, hrecs, hv⟩
  rw [respond_out, ho]

/-- Settles O43: a command other than ERRCLR and SRST only extends the state, which clears no flag. -/
theorem flagsAreSticky : Obligations.FlagsAreSticky := by
  unfold Obligations.FlagsAreSticky
  intro i s t hclr hsrst ht
  obtain ⟨st, v, u, hx, hbody, -⟩ := exec_eq_respond i s
  obtain rfl : respond st v u = t := Host.Outcome.next.inj (hx.symm.trans ht)
  obtain hext | ⟨⟨m, hm⟩ | hs, -⟩ := hbody
  · exact hext.flags
  · exact absurd hm (hclr m)
  · exact absurd hs hsrst

/-- Settles O55: the block waits or resets, which emits nothing, or takes a word, which appends to the log. -/
theorem recordsAreNeverWithdrawn : Obligations.RecordsAreNeverWithdrawn := by
  unfold Obligations.RecordsAreNeverWithdrawn
  intro s
  obtain ⟨-, h⟩ | ⟨rest, -, h⟩ | ⟨w, rest, -, h⟩ := step_cases s
  · exact ⟨s, [], h, by simp⟩
  · exact ⟨_, [], h, by simp⟩
  · obtain ⟨st, v, u, recs, hstep, -, ho, -⟩ := stepWord_eq_respond w { s with input := rest }
    exact ⟨_, recs ++ [.resp ⟨st, v⟩], h.trans hstep, by rw [respond_out, ho, List.append_assoc]⟩

end Sys2Proof.Proofs
end

section
/-! The state after reset and the invariant of spec/10_state.md R21–R26. -/

open Sys2Proof Sys2Proof.Machine

namespace Sys2Proof.Proofs

/-! `respond`, `emit` and `report` write no element that the invariant reads, so it says the same before and after them by
definition. The operations below branch or write such an element. -/

/-- An unescaper at the start of an input sequence. -/
theorem startUnesc_inv : UnescState.Inv { first := true, pend := false } := by
  simp [UnescState.Inv]

/-- An empty, unpoisoned TX path. -/
theorem emptyTx_inv : TxState.Inv { buf := [], poison := false } := by
  simp [TxState.Inv]

theorem resetState_inv (s : State) : (resetState s).Inv :=
  ⟨decReset_inv, startUnesc_inv, startUnesc_inv, emptyTx_inv⟩

@[simp] theorem reportIf_inv (c : Bool) (r : Report) (s : State) : (reportIf c r s).Inv ↔ s.Inv := by
  cases c <;> rfl

theorem feedDecoder_inv {s : State} (h : s.Inv) (b : Byte) : (feedDecoder b s).Inv := by
  obtain ⟨hdec, hrxu, hxu, htx⟩ := h
  simp only [State.Inv, feedDecoder_dec, feedDecoder_rxu, feedDecoder_xu, feedDecoder_tx]
  exact ⟨decFeed_inv hdec b, hrxu, hxu, htx⟩

theorem feedDecoderAny_inv {s : State} (h : s.Inv) (o : Option Byte) : (feedDecoderAny o s).Inv := by
  cases o with
  | none => exact h
  | some b => exact feedDecoder_inv h b

/-- TXB: a full buffer may be poisoned, and a byte is appended only to one that is not full (42_encoder R90). -/
theorem execTxb_inv {s : State} (h : s.Inv) (d : Byte) : ∃ t, execTxb d s = .next t ∧ t.Inv := by
  obtain ⟨hdec, hrxu, hxu, hle, hfull⟩ := h
  obtain ⟨-, e⟩ | ⟨hl, e⟩ | ⟨hp, hl, e⟩ := execTxb_cases d s
  · exact ⟨_, e, hdec, hrxu, hxu, hle, hfull⟩
  · exact ⟨_, e, hdec, hrxu, hxu, hle, fun _ => hl⟩
  · have hroom : (s.tx.buf ++ [d]).length ≤ Config.txBufCap := by
      rw [List.length_append, List.length_singleton]
      omega
    exact ⟨_, e, hdec, hrxu, hxu, hroom, fun hq => absurd (hp.symm.trans hq) nofun⟩

/-- TXSEND empties the buffer and leaves it unpoisoned (42_encoder R91). -/
theorem execTxsend_inv {s : State} (h : s.Inv) : ∃ t, execTxsend s = .next t ∧ t.Inv := by
  obtain ⟨hdec, hrxu, hxu, -⟩ := h
  obtain ⟨-, e⟩ | ⟨-, e⟩ := execTxsend_cases s <;>
    exact ⟨_, e, hdec, hrxu, hxu, emptyTx_inv⟩

theorem execRdreg_inv {s : State} (h : s.Inv) (r : Byte) : ∃ t, execRdreg r s = .next t ∧ t.Inv := by
  obtain ⟨v, e⟩ | e := execRdreg_cases r s
  · exact ⟨_, e, h⟩
  · exact ⟨_, e, h⟩

/-- Every command completes and keeps the invariant: `decFeed_inv` for R21, `unescStep_inv` for R22 and R23, `execTxb_inv` for R25
and R26 are its content, the other commands reset an element or leave it. -/
theorem exec_inv {s : State} (h : s.Inv) (i : Instr) : ∃ t, exec i s = .next t ∧ t.Inv := by
  have ⟨hdec, hrxu, hxu, htx⟩ := h
  cases i with
  | rxb d =>
    have hnext : State.Inv { s with rxu := (unescStep Config.policy s.rxu d).next } :=
      ⟨hdec, unescStep_inv _ _ _, hxu, htx⟩
    exact ⟨_, rfl, feedDecoderAny_inv ((reportIf_inv _ _ _).2 hnext) _⟩
  | rxend => exact ⟨_, rfl, (reportIf_inv _ _ _).2 ⟨hdec, unescEnd_inv s.rxu, hxu, htx⟩⟩
  | rxrst => exact ⟨_, rfl, decReset_inv, startUnesc_inv, hxu, htx⟩
  | dfeed d => exact ⟨_, rfl, feedDecoder_inv h d⟩
  | txb d => exact execTxb_inv h d
  | txsend => exact execTxsend_inv h
  | txclr => exact ⟨_, rfl, hdec, hrxu, hxu, emptyTx_inv⟩
  | escb d => exact ⟨_, rfl, h⟩
  | escend => exact ⟨_, rfl, h⟩
  | unescb d => exact ⟨_, rfl, (reportIf_inv _ _ _).2 ⟨hdec, hrxu, unescStep_inv _ _ _, htx⟩⟩
  | unescend => exact ⟨_, rfl, (reportIf_inv _ _ _).2 ⟨hdec, hrxu, unescEnd_inv s.xu, htx⟩⟩
  | rdreg r => exact execRdreg_inv h r
  | errclr m => exact ⟨_, rfl, h⟩
  | srst => exact ⟨_, rfl, resetState_inv s⟩

theorem stepWord_inv {s : State} (h : s.Inv) (w : CmdWord) : ∃ t, stepWord w s = .next t ∧ t.Inv := by
  obtain ⟨i, -, e⟩ | e := stepWord_cases w s
  · rw [e]
    exact exec_inv h i
  · exact ⟨_, e, h⟩

/-- Every step completes and keeps the invariant. -/
theorem step_inv {s : State} (h : s.Inv) : ∃ t, step s = .next t ∧ t.Inv := by
  obtain ⟨-, e⟩ | ⟨rest, -, e⟩ | ⟨w, rest, -, e⟩ := step_cases s
  · exact ⟨s, e, h⟩
  · exact ⟨_, e, resetState_inv _⟩
  · have hrest : State.Inv { s with input := rest } := h
    rw [e]
    exact stepWord_inv hrest w

/-- Settles O52: `step_inv` for the one state the step answers. -/
theorem stepKeepsTheInvariant : Obligations.StepKeepsTheInvariant := by
  unfold Obligations.StepKeepsTheInvariant
  intro s t h ht
  obtain ⟨t', ht', hinv⟩ := step_inv h
  obtain rfl : t' = t := Host.Outcome.next.inj (ht'.symm.trans ht)
  exact hinv

/-- Settles O51: the elements are those that `resetState` writes, and nothing has been emitted. -/
theorem resetMeetsTheInvariant : Obligations.ResetMeetsTheInvariant := by
  unfold Obligations.ResetMeetsTheInvariant
  exact ⟨resetState_inv State.reset, fun e he => absurd he List.not_mem_nil⟩

/-- Settles O9: the reset table is how `State.reset` is written. -/
theorem resetValuesOfEveryElement : Obligations.ResetValuesOfEveryElement := by
  unfold Obligations.ResetValuesOfEveryElement
  rfl

end Sys2Proof.Proofs
end

section
/-! One effect per path: a command of the RX, TX or standalone path reads and writes its own path's elements, raises its own
flags and emits on its own channel, whatever the rest of the state holds (spec/20_memory.md R54). -/

open Sys2Proof Sys2Proof.Machine Sys2Proof.Claims

namespace Sys2Proof.Proofs

/-! What a path owns. -/

/-- `s` with the elements of path `p` as `u` has them. -/
def putPart (p : Claims.Path) (u s : State) : State :=
  match p with
  | .rx => { s with dec := u.dec, rxu := u.rxu }
  | .tx => { s with tx := u.tx }
  | .standalone => { s with xu := u.xu, xeFirst := u.xeFirst }

/-- The flags the reports of a path raise (60_exceptions R121). -/
def ownFlags : Claims.Path → List ErrFlag
  | .rx => [.csum, .desync]
  | .tx => [.precond]
  | .standalone => [.desync]

/-- The path whose channel a record stands on; responses belong to no path. -/
def channelPath : Output → Option Claims.Path
  | .resp _ => none
  | .rxev _ => some .rx
  | .txout _ => some .tx
  | .xout _ => some .standalone

@[simp] theorem putPart_self (p : Claims.Path) (s : State) : putPart p s s = s := by
  cases p <;> rfl

section Channels

variable {p : Claims.Path} {os : List Output}

theorem respOf_eq_nil (h : ∀ o ∈ os, channelPath o = some p) : respOf os = [] := by
  induction os with
  | nil => rfl
  | cons o os ih =>
    obtain ⟨ho, hos⟩ := List.forall_mem_cons.1 h
    cases o with
    | resp r => cases ho
    | rxev _ | txout _ | xout _ => exact ih hos

theorem rxevOf_eq_nil (h : ∀ o ∈ os, channelPath o = some p) (hp : p ≠ .rx) : rxevOf os = [] := by
  induction os with
  | nil => rfl
  | cons o os ih =>
    obtain ⟨ho, hos⟩ := List.forall_mem_cons.1 h
    cases o with
    | rxev e => exact absurd (Option.some.inj ho).symm hp
    | resp _ | txout _ | xout _ => exact ih hos

theorem txoutOf_eq_nil (h : ∀ o ∈ os, channelPath o = some p) (hp : p ≠ .tx) : txoutOf os = [] := by
  induction os with
  | nil => rfl
  | cons o os ih =>
    obtain ⟨ho, hos⟩ := List.forall_mem_cons.1 h
    cases o with
    | txout t => exact absurd (Option.some.inj ho).symm hp
    | resp _ | rxev _ | xout _ => exact ih hos

theorem xoutOf_eq_nil (h : ∀ o ∈ os, channelPath o = some p) (hp : p ≠ .standalone) : xoutOf os = [] := by
  induction os with
  | nil => rfl
  | cons o os ih =>
    obtain ⟨ho, hos⟩ := List.forall_mem_cons.1 h
    cases o with
    | xout b => exact absurd (Option.some.inj ho).symm hp
    | resp _ | rxev _ | txout _ => exact ih hos

end Channels

/-! Effects. -/

/-- What a command of a path does before its response: the path's elements it leaves (those of `part`), the flags it raises and the
records it emits. -/
structure Effect where
  part : State
  flags : BitVec 4
  recs : List Output

/-- The effect on a state, for a command of path `p`. -/
def Effect.apply (e : Effect) (p : Claims.Path) (s : State) : State :=
  { putPart p e.part s with err := s.err ||| e.flags, out := s.out ++ e.recs }

/-- The effect raises the path's own flags only and emits on its own channel only. -/
structure Effect.Within (e : Effect) (p : Claims.Path) : Prop where
  flags : ∀ k, (∀ f ∈ ownFlags p, k ≠ f.bit) → e.flags.getLsbD k = false
  recs : ∀ o ∈ e.recs, channelPath o = some p

/-- `F` has one and the same effect of path `p` on every state. -/
def Uniform (p : Claims.Path) (F : State → State) : Prop :=
  ∃ e : Effect, e.Within p ∧ ∀ s, F s = e.apply p s

namespace Uniform

variable {p : Claims.Path} {F : State → State}

theorem of_putPart (p : Claims.Path) (u : State) : Uniform p (putPart p u) :=
  ⟨⟨u, 0#4, []⟩, ⟨fun _ _ => BitVec.getLsbD_zero, nofun⟩, fun s => by cases p <;> simp [Effect.apply, putPart]⟩

/-- A write to the path's own elements. -/
theorem write (h : Uniform p F) (g : State → State)
    (hg : ∀ (e : Effect) (s : State), g (e.apply p s) = { e with part := g e.part : Effect }.apply p s) :
    Uniform p (fun s => g (F s)) := by
  obtain ⟨e, ⟨hflags, hrecs⟩, hF⟩ := h
  exact ⟨{ e with part := g e.part }, ⟨hflags, hrecs⟩, fun s => (congrArg g (hF s)).trans (hg e s)⟩

theorem emit (h : Uniform p F) {os : List Output} (hos : ∀ o ∈ os, channelPath o = some p) :
    Uniform p (fun s => emit os (F s)) := by
  obtain ⟨e, ⟨hflags, hrecs⟩, hF⟩ := h
  refine ⟨{ e with recs := e.recs ++ os }, ⟨hflags, List.forall_mem_append.2 ⟨hrecs, hos⟩⟩, fun s => ?_⟩
  simp [hF, Machine.emit, Effect.apply]

theorem report (h : Uniform p F) {r : Report} (hr : r.flag ∈ ownFlags p) (hos : ∀ o ∈ r.records, channelPath o = some p) :
    Uniform p (fun s => report r (F s)) := by
  obtain ⟨e, ⟨hflags, hrecs⟩, hF⟩ := h
  refine ⟨{ e with flags := setFlag r.flag e.flags, recs := e.recs ++ r.records },
    ⟨fun k hk => ?_, List.forall_mem_append.2 ⟨hrecs, hos⟩⟩, fun s => ?_⟩
  · simp [setFlag_getLsbD, hflags k hk, hk _ hr]
  · simp [hF, Machine.report, Machine.emit, Effect.apply, setFlag, BitVec.or_assoc]

theorem reportIf (h : Uniform p F) (c : Bool) {r : Report} (hr : r.flag ∈ ownFlags p)
    (hos : ∀ o ∈ r.records, channelPath o = some p) : Uniform p (fun s => reportIf c r (F s)) := by
  cases c with
  | false => exact h
  | true => exact h.report hr hos

theorem complete (h : Uniform .rx F) (f : Frame) : Uniform .rx (fun s => complete f (F s)) := by
  unfold Machine.complete
  split
  · exact h.emit (by simp [channelPath])
  · exact h.report (.head _) (by simp [Report.records, channelPath])

theorem completeAny (h : Uniform .rx F) (o : Option Frame) : Uniform .rx (fun s => completeAny o (F s)) := by
  cases o with
  | none => exact h
  | some f => exact h.complete f

/-- The decoder reads and writes `dec` alone, which belongs to the RX path. -/
theorem feedDecoder (h : Uniform .rx F) (b : Byte) : Uniform .rx (fun s => feedDecoder b (F s)) := by
  obtain ⟨e, he, hF⟩ := h
  obtain rfl : F = e.apply .rx := funext hF
  have hdec := write ⟨e, he, fun _ => rfl⟩ (fun s => { s with dec := (decFeed e.part.dec b).1 }) fun _ _ => rfl
  exact hdec.completeAny (decFeed e.part.dec b).2

theorem feedDecoderAny (h : Uniform .rx F) (o : Option Byte) : Uniform .rx (fun s => feedDecoderAny o (F s)) := by
  cases o with
  | none => exact h
  | some b => exact h.feedDecoder b

end Uniform

/-- A path's command reads its own path's elements only: from every state that has them as `s` has them, it answers one status and
has one effect. -/
theorem exec_uniform {i : Instr} {p : Claims.Path} (h : pathOf i = some p) (s : State) :
    ∃ st F, Uniform p F ∧ ∀ x, exec i (putPart p s x) = .next (respond st 0#24 (F x)) := by
  have start := Uniform.of_putPart p s
  cases i with
  | rxb d =>
    cases h
    let r := unescStep Config.policy s.rxu d
    have hrxu := start.write (fun x => { x with rxu := r.next }) fun _ _ => rfl
    have hreport := hrxu.reportIf r.desync (r := .escapeDesyncRx) (by decide) (by decide)
    exact ⟨desyncStatus r.desync, _, hreport.feedDecoderAny r.out, fun _ => rfl⟩
  | rxend =>
    cases h
    have hrxu := start.write (fun x => { x with rxu := unescEndState }) fun _ _ => rfl
    have hreport := hrxu.reportIf s.rxu.pend (r := .escapeDesyncRx) (by decide) (by decide)
    exact ⟨desyncStatus s.rxu.pend, _, hreport, fun _ => rfl⟩
  | rxrst =>
    cases h
    exact ⟨_, _, start.write (fun x => { x with dec := decReset, rxu := unescEndState }) fun _ _ => rfl, fun _ => rfl⟩
  | dfeed d =>
    cases h
    exact ⟨_, _, start.feedDecoder d, fun _ => rfl⟩
  | txb d =>
    cases h
    by_cases hp : s.tx.poison = true
    · exact ⟨_, _, start.report (r := .preconditionViolation) (by decide) (by decide), fun _ => if_pos hp⟩
    · by_cases hl : s.tx.buf.length = Config.txBufCap
      · have hpoison := start.write (fun x => { x with tx := { x.tx with poison := true } }) fun _ _ => rfl
        exact ⟨_, _, hpoison.report (r := .preconditionViolation) (by decide) (by decide), fun _ => (if_neg hp).trans (if_pos hl)⟩
      · exact ⟨_, _, start.write (fun x => { x with tx := { x.tx with buf := x.tx.buf ++ [d] } }) fun _ _ => rfl,
          fun _ => (if_neg hp).trans (if_neg hl)⟩
  | txsend =>
    cases h
    by_cases hp : s.tx.poison = true
    · have hempty := start.write (fun x => { x with tx := { buf := [], poison := false } }) fun _ _ => rfl
      exact ⟨_, _, hempty.report (r := .preconditionViolation) (by decide) (by decide), fun _ => if_pos hp⟩
    · have hsend := start.emit (os := (txRecords (escape Config.policy (encodeFrame s.tx.buf))).map .txout)
        (by simp [channelPath])
      exact ⟨_, _, hsend.write (fun x => { x with tx := { x.tx with buf := [] } }) fun _ _ => rfl, fun _ => if_neg hp⟩
  | txclr =>
    cases h
    exact ⟨_, _, start.write (fun x => { x with tx := { buf := [], poison := false } }) fun _ _ => rfl, fun _ => rfl⟩
  | escb d =>
    cases h
    have hfirst := start.write (fun x => { x with xeFirst := false }) fun _ _ => rfl
    exact ⟨_, _, hfirst.emit (os := (escOut Config.policy s.xeFirst d).map .xout) (by simp [channelPath]), fun _ => rfl⟩
  | escend =>
    cases h
    exact ⟨_, _, start.write (fun x => { x with xeFirst := true }) fun _ _ => rfl, fun _ => rfl⟩
  | unescb d =>
    cases h
    let r := unescStep Config.policy s.xu d
    have hxu := start.write (fun x => { x with xu := r.next }) fun _ _ => rfl
    have hreport := hxu.reportIf r.desync (r := .escapeDesyncX) (by decide) (by decide)
    exact ⟨desyncStatus r.desync, _, hreport.emit (os := r.out.toList.map .xout) (by simp [channelPath]), fun _ => rfl⟩
  | unescend =>
    cases h
    have hxu := start.write (fun x => { x with xu := unescEndState }) fun _ _ => rfl
    exact ⟨desyncStatus s.xu.pend, _, hxu.reportIf s.xu.pend (r := .escapeDesyncX) (by decide) (by decide), fun _ => rfl⟩
  | rdreg | errclr | srst => cases h

/-- The same with the effect itself: what a path's command answers and does is fixed by its own path's elements. -/
theorem exec_eq_apply {i : Instr} {p : Claims.Path} (h : pathOf i = some p) (s : State) :
    ∃ st, ∃ e : Effect, e.Within p ∧ ∀ x, putPart p s x = x → exec i x = .next (respond st 0#24 (e.apply p x)) := by
  obtain ⟨st, F, ⟨e, he, hF⟩, hexec⟩ := exec_uniform h s
  refine ⟨st, e, he, fun x hx => ?_⟩
  rw [← hF, ← hexec, hx]

/-- The state a path's command leaves is its effect and a response. -/
theorem eq_respond_apply {i : Instr} {p : Claims.Path} {s t : State} (h : pathOf i = some p) (ht : exec i s = .next t) :
    ∃ st, ∃ e : Effect, e.Within p ∧ t = respond st 0#24 (e.apply p s) := by
  obtain ⟨st, e, he, hexec⟩ := exec_eq_apply h s
  exact ⟨st, e, he, Host.Outcome.next.inj (ht.symm.trans (hexec s (putPart_self p s)))⟩

/-! What an effect leaves. -/

@[simp] theorem respond_resp (st : Status) (v : Word24) (s : State) : (respond st v s).resp = s.resp ++ [⟨st, v⟩] := by
  simp [State.resp, respOf]

@[simp] theorem respond_rxev (st : Status) (v : Word24) (s : State) : (respond st v s).rxev = s.rxev := by
  simp [State.rxev, rxevOf]

@[simp] theorem respond_txout (st : Status) (v : Word24) (s : State) : (respond st v s).txout = s.txout := by
  simp [State.txout, txoutOf]

@[simp] theorem respond_xout (st : Status) (v : Word24) (s : State) : (respond st v s).xout = s.xout := by
  simp [State.xout, xoutOf]

section Apply

variable {e : Effect} {p : Claims.Path}

theorem apply_rxev (s : State) : (e.apply p s).rxev = s.rxev ++ rxevOf e.recs := rxevOf_append _ _

theorem apply_txout (s : State) : (e.apply p s).txout = s.txout ++ txoutOf e.recs := txoutOf_append _ _

theorem apply_xout (s : State) : (e.apply p s).xout = s.xout ++ xoutOf e.recs := xoutOf_append _ _

namespace Effect.Within

theorem resp_apply (h : e.Within p) (s : State) : (e.apply p s).resp = s.resp := by
  simp [State.resp, Effect.apply, respOf_eq_nil h.recs]

theorem rxev_apply (h : e.Within p) (hp : p ≠ .rx) (s : State) : (e.apply p s).rxev = s.rxev := by
  rw [apply_rxev, rxevOf_eq_nil h.recs hp, List.append_nil]

theorem txout_apply (h : e.Within p) (hp : p ≠ .tx) (s : State) : (e.apply p s).txout = s.txout := by
  rw [apply_txout, txoutOf_eq_nil h.recs hp, List.append_nil]

theorem xout_apply (h : e.Within p) (hp : p ≠ .standalone) (s : State) : (e.apply p s).xout = s.xout := by
  rw [apply_xout, xoutOf_eq_nil h.recs hp, List.append_nil]

theorem err_apply (h : e.Within p) {k : Nat} (hk : ∀ f ∈ ownFlags p, k ≠ f.bit) (s : State) :
    (e.apply p s).err.getLsbD k = s.err.getLsbD k := by
  simp [Effect.apply, h.flags k hk]

end Effect.Within

end Apply

end Sys2Proof.Proofs
end

section
/-! The frames of the commands, path by path (spec/20_memory.md R54), and of the control commands (R49). -/

open Sys2Proof Sys2Proof.Machine Sys2Proof.Claims

namespace Sys2Proof.Proofs

theorem execTxb_txout {d : Byte} {s t : State} (h : execTxb d s = .next t) : t.txout = s.txout := by
  obtain ⟨-, e⟩ | ⟨-, e⟩ | ⟨-, -, e⟩ := execTxb_cases d s
  all_goals
    obtain rfl := Host.Outcome.next.inj (e.symm.trans h)
    simp [State.txout, txoutOf, Report.records]

/-- A control command emits its response and no other record, and takes no input. -/
theorem exec_control {i : Instr} (h : pathOf i = none) (s : State) :
    ∃ st v u, exec i s = .next (respond st v u) ∧ u.input = s.input ∧ u.out = s.out := by
  cases i with
  | rdreg r =>
    obtain ⟨v, e⟩ | e := execRdreg_cases r s
    · exact ⟨_, v, s, e, rfl, rfl⟩
    · exact ⟨_, _, _, e, rfl, List.append_nil _⟩
  | errclr m => exact ⟨_, _, _, rfl, rfl, rfl⟩
  | srst => exact ⟨_, _, _, rfl, rfl, rfl⟩
  | rxb | rxend | rxrst | dfeed | txb | txsend | txclr | escb | escend | unescb | unescend => cases h

/-- The register numbers 0 to 5 name a register (10_state R36). -/
theorem exists_ofNumber {r : Byte} (h : (Instr.rdreg r).WellFormed) : ∃ g, Reg.ofNumber r = some g := by
  have hr : r.toNat ≤ 5 := of_decide_eq_true h
  unfold Reg.ofNumber
  interval_cases r.toNat <;> exact ⟨_, rfl⟩

/-- Settles O45: an effect of the RX path; RXEND writes the unescaper alone and DFEED does not read or write it. -/
theorem rxPathFrame : Obligations.RxPathFrame := by
  unfold Obligations.RxPathFrame
  intro i s t hi ht
  obtain ⟨st, e, he, rfl⟩ := eq_respond_apply hi ht
  refine ⟨rfl, rfl, rfl, rfl, ?txout, ?xout, he.err_apply (by decide) s, he.err_apply (by decide) s, ?rxend, ?dfeed⟩
  case txout => rw [respond_txout, he.txout_apply nofun]
  case xout => rw [respond_xout, he.xout_apply nofun]
  case rxend =>
    rintro rfl
    rw [← Host.Outcome.next.inj ht]
    simp
  case dfeed =>
    rintro d rfl
    rw [← Host.Outcome.next.inj ht]
    simp

/-- Settles O46: an effect of the TX path; only TXSEND emits on TXOUT. -/
theorem txPathFrame : Obligations.TxPathFrame := by
  unfold Obligations.TxPathFrame
  intro i s t hi ht
  have hsend : i ≠ .txsend → t.txout = s.txout := by
    intro hne
    cases i with
    | txb d => exact execTxb_txout ht
    | txsend => exact absurd rfl hne
    | txclr =>
      rw [← Host.Outcome.next.inj ht]
      exact respond_txout _ _ _
    | rxb | rxend | rxrst | dfeed | escb | escend | unescb | unescend | rdreg | errclr | srst => cases hi
  obtain ⟨st, e, he, rfl⟩ := eq_respond_apply hi ht
  refine ⟨rfl, rfl, rfl, rfl, rfl, ?rxev, ?xout, fun k hk => he.err_apply ?_ s, hsend⟩
  case rxev => rw [respond_rxev, he.rxev_apply nofun]
  case xout => rw [respond_xout, he.xout_apply nofun]
  simpa [ownFlags, ErrFlag.bit] using hk

/-- Settles O47: an effect of the standalone path; ESCB and ESCEND write `xeFirst` alone, UNESCB and UNESCEND do not write it. -/
theorem standaloneFrame : Obligations.StandaloneFrame := by
  unfold Obligations.StandaloneFrame
  intro i s t hi ht
  obtain ⟨st, e, he, rfl⟩ := eq_respond_apply hi ht
  refine ⟨rfl, rfl, rfl, rfl, ?rxev, ?txout, fun k hk => he.err_apply ?_ s, ?escaper, ?unescaper⟩
  case rxev => rw [respond_rxev, he.rxev_apply nofun]
  case txout => rw [respond_txout, he.txout_apply nofun]
  case escaper =>
    rintro (⟨d, rfl⟩ | rfl) <;> rw [← Host.Outcome.next.inj ht] <;> exact ⟨rfl, rfl⟩
  case unescaper =>
    rintro (⟨d, rfl⟩ | rfl) <;> rw [← Host.Outcome.next.inj ht] <;> simp
  simpa [ownFlags, ErrFlag.bit] using hk

/-- Settles O48: `exec_control` for the channels; a well-formed RDREG names a register, and reading one writes nothing. -/
theorem controlFrame : Obligations.ControlFrame := by
  unfold Obligations.ControlFrame
  intro i s t hi ht
  obtain ⟨st, v, u, hx, hin, hout⟩ := exec_control hi s
  obtain rfl : respond st v u = t := Host.Outcome.next.inj (hx.symm.trans ht)
  refine ⟨hin, ?rxev, ?txout, ?xout, ?rdreg, ?errclr⟩
  case rxev => rw [respond_rxev, State.rxev, hout, State.rxev]
  case txout => rw [respond_txout, State.txout, hout, State.txout]
  case xout => rw [respond_xout, State.xout, hout, State.xout]
  case rdreg =>
    rintro r rfl hr
    obtain ⟨g, hg⟩ := exists_ofNumber hr
    have hread : exec (.rdreg r) s = .next (respond .ok (readReg g s) s) := by simp [exec, execRdreg, hg]
    rw [Host.Outcome.next.inj (ht.symm.trans hread)]
    rfl
  case errclr =>
    rintro m rfl
    rw [← Host.Outcome.next.inj ht]
    rfl

end Sys2Proof.Proofs
end

section
/-! Two commands in a row: commands of different paths commute (spec/20_memory.md R54), and a second resetting command only
responds (R49). -/

open Sys2Proof Sys2Proof.Machine Sys2Proof.Claims

namespace Sys2Proof.Proofs

theorem runInstrs_cons {i : Instr} {is : List Instr} {s t : State} (h : exec i s = .next t) :
    runInstrs (i :: is) s = runInstrs is t := by
  simp [runInstrs, h]

/-- An effect of another path leaves a path's elements, so the path's commands act after it as before it. -/
theorem putPart_of_ne {p q : Claims.Path} (h : p ≠ q) (e : Effect) (st : Status) (v : Word24) (s : State) :
    putPart q s (respond st v (e.apply p s)) = respond st v (e.apply p s) := by
  cases p <;> cases q
  case rx.rx | tx.tx | standalone.standalone => exact absurd rfl h
  all_goals rfl

/-- Effects of different paths leave the same elements in either order: they write different elements, and raised flags commute. -/
theorem elements_apply_comm {p q : Claims.Path} (h : p ≠ q) (e f : Effect) (st st' : Status) (v v' : Word24) (s : State) :
    (respond st' v' (f.apply q (respond st v (e.apply p s)))).elements =
      (respond st v (e.apply p (respond st' v' (f.apply q s)))).elements := by
  have herr : s.err ||| e.flags ||| f.flags = s.err ||| f.flags ||| e.flags := by
    rw [BitVec.or_assoc, BitVec.or_comm e.flags, BitVec.or_assoc]
  cases p <;> cases q
  case rx.rx | tx.tx | standalone.standalone => exact absurd rfl h
  all_goals exact congrArg (Elements.mk _ _ _ _ _) herr

theorem append_comm_of_nil {α : Type} {a b : List α} (h : a = [] ∨ b = []) : a ++ b = b ++ a := by
  obtain rfl | rfl := h <;> simp

/-- Settles O49: each command has after the other the effect it has alone, and the two effects commute on the elements and on every
channel but RESP. -/
theorem pathsAreIndependent : Obligations.PathsAreIndependent := by
  unfold Obligations.PathsAreIndependent
  intro i j p q s hi hj hpq
  obtain ⟨sti, e, he, hexeci⟩ := exec_eq_apply hi s
  obtain ⟨stj, f, hf, hexecj⟩ := exec_eq_apply hj s
  have hij := (runInstrs_cons (is := [j]) (hexeci s (putPart_self p s))).trans
    (runInstrs_cons (hexecj _ (putPart_of_ne hpq e sti 0#24 s)))
  have hji := (runInstrs_cons (is := [i]) (hexecj s (putPart_self q s))).trans
    (runInstrs_cons (hexeci _ (putPart_of_ne hpq.symm f stj 0#24 s)))
  refine ⟨_, _, ⟨sti, 0#24⟩, ⟨stj, 0#24⟩, hij, hji, elements_apply_comm hpq .., ?rxev, ?txout, ?xout, ?respij, ?respji⟩
  case rxev =>
    have hcomm := append_comm_of_nil <| (hpq.ne_or_ne .rx).imp (rxevOf_eq_nil he.recs) (rxevOf_eq_nil hf.recs)
    simp only [respond_rxev, apply_rxev, List.append_assoc, hcomm]
  case txout =>
    have hcomm := append_comm_of_nil <| (hpq.ne_or_ne .tx).imp (txoutOf_eq_nil he.recs) (txoutOf_eq_nil hf.recs)
    simp only [respond_txout, apply_txout, List.append_assoc, hcomm]
  case xout =>
    have hcomm := append_comm_of_nil <| (hpq.ne_or_ne .standalone).imp (xoutOf_eq_nil he.recs) (xoutOf_eq_nil hf.recs)
    simp only [respond_xout, apply_xout, List.append_assoc, hcomm]
  case respij => simp [he.resp_apply, hf.resp_apply]
  case respji => simp [he.resp_apply, hf.resp_apply]

/-- RXEND after an ended sequence has nothing left to report or write. -/
theorem exec_rxend_of_ended {s : State} (h : s.rxu = unescEndState) : exec .rxend s = .next (respond .ok 0#24 s) := by
  obtain ⟨dec, rxu, xu, xeFirst, tx, err, input, out⟩ := s
  obtain rfl : rxu = unescEndState := h
  rfl

/-- Nor has UNESCEND. -/
theorem exec_unescend_of_ended {s : State} (h : s.xu = unescEndState) : exec .unescend s = .next (respond .ok 0#24 s) := by
  obtain ⟨dec, rxu, xu, xeFirst, tx, err, input, out⟩ := s
  obtain rfl : xu = unescEndState := h
  rfl

theorem clearFlags_clearFlags (m : Nibble) (err : BitVec 4) : clearFlags m (clearFlags m err) = clearFlags m err := by
  simp [clearFlags, BitVec.and_assoc]

/-- A resetting command leaves a state in which it only responds. -/
theorem exec_twice {i : Instr} (s : State)
    (h : i = .rxrst ∨ i = .txclr ∨ i = .escend ∨ i = .srst ∨ (∃ m, i = .errclr m) ∨ i = .rxend ∨ i = .unescend) :
    ∃ a, exec i s = .next a ∧ exec i a = .next (respond .ok 0#24 a) := by
  obtain rfl | rfl | rfl | rfl | ⟨m, rfl⟩ | rfl | rfl := h
  · exact ⟨_, rfl, rfl⟩
  · exact ⟨_, rfl, rfl⟩
  · exact ⟨_, rfl, rfl⟩
  · exact ⟨_, rfl, rfl⟩
  · refine ⟨_, rfl, ?_⟩
    simp only [exec, execErrclr, respond_err, clearFlags_clearFlags]
    rfl
  · exact ⟨_, rfl, exec_rxend_of_ended (reportIf_rxu _ _ _)⟩
  · exact ⟨_, rfl, exec_unescend_of_ended (reportIf_xu _ _ _)⟩

/-- Settles O50: the second command only responds, and a response is no element. -/
theorem resettingCommandsAreIdempotent : Obligations.ResettingCommandsAreIdempotent := by
  unfold Obligations.ResettingCommandsAreIdempotent
  intro i s h
  obtain ⟨a, hs, ha⟩ := exec_twice s h
  exact ⟨a, _, hs, ha, rfl, rfl⟩

end Sys2Proof.Proofs
end

section
/-! The bounds the invariant gives (spec/10_state.md R19, R20, R25; spec/20_memory.md R42). -/

open Sys2Proof Sys2Proof.Machine

namespace Sys2Proof.Proofs

theorem decInv_length_le {d : DecState} (h : d.Inv) : d.buf.length ≤ 65535 := by
  have hlen := d.len.isLt
  unfold DecState.Inv at h
  cases hm : d.mode <;> simp only [hm] at h
  case readingPayload | readingChecksum => omega
  all_goals simp [h]

theorem decInv_sum {d : DecState} (h : d.Inv) : d.sum.toNat = byteSum d.buf := by
  unfold DecState.Inv at h
  cases hm : d.mode <;> simp only [hm] at h
  all_goals simp [h, byteSum]

/-- Settles O54: the mode's invariant bounds the buffer by the length field and makes the sum exact, and 65535 bytes sum to at most
255 · 65535 = 0xFEFF01. -/
theorem buffersAndSumStayInRange : Obligations.BuffersAndSumStayInRange := by
  unfold Obligations.BuffersAndSumStayInRange
  rintro s ⟨hdec, -, -, htx, -⟩
  have hlen := decInv_length_le hdec
  have hsum := decInv_sum hdec
  have hle := byteSum_le s.dec.buf
  exact ⟨hlen, htx, hsum, by omega⟩

end Sys2Proof.Proofs
end

section
/-! Which words are commands, and the word of each command (spec/30_encoding.md R60–R66). -/

open Sys2Proof Sys2Proof.Machine Sys2Proof.Claims

namespace Sys2Proof.Proofs

/-! A word from its fields, and back. -/

/-- A word with `z = 0` is put together from its opcode and its operand (30_encoding R60). -/
theorem commandWord_of_fields {w : CmdWord} (hz : zField w = 0#4) : commandWord (opField w) (aField w) = w := by
  rw [commandWord, ← hz]
  unfold opField zField aField
  rw [BitVec.extractLsb'_append_extractLsb'_eq_extractLsb' (by rfl),
    BitVec.extractLsb'_append_extractLsb'_eq_extractLsb' (by rfl)]
  exact BitVec.extractLsb'_eq_self

theorem commandWord_toNat (op : Nibble) (a : Byte) : (commandWord op a).toNat = op.toNat <<< 12 ||| a.toNat := by
  calc (commandWord op a).toNat = (op ++ 0#4).toNat <<< 8 ||| a.toNat := BitVec.toNat_append _ _
    _ = (op.toNat <<< 4) <<< 8 ||| a.toNat := by rw [BitVec.toNat_append, BitVec.toNat_ofNat, Nat.zero_mod, Nat.or_zero]
    _ = op.toNat <<< 12 ||| a.toNat := by rw [← Nat.shiftLeft_add]

/-- The word as the patterns of 30_encoding R63 write it: the operand beneath the shifted opcode. -/
theorem commandWord_eq_or (op : Nibble) (a : Byte) :
    commandWord op a = op.setWidth 16 <<< 12 ||| a.setWidth 16 := by
  have hop : op.toNat <<< 12 < 2 ^ 16 := by rw [Nat.shiftLeft_eq]; omega
  apply BitVec.eq_of_toNat_eq
  rw [commandWord_toNat, BitVec.toNat_or, BitVec.toNat_shiftLeft, BitVec.toNat_setWidth, BitVec.toNat_setWidth,
    Nat.mod_eq_of_lt (by omega : op.toNat < 2 ^ 16), Nat.mod_eq_of_lt hop, Nat.mod_eq_of_lt (by omega)]

@[simp] theorem decode_commandWord (op : Nibble) (a : Byte) : decode (commandWord op a) = decodeOp op a := by
  rw [decode, if_pos (Laws.commandWord_z op a), Laws.commandWord_op, Laws.commandWord_a]

/-! The operand formats (30_encoding R61). -/

theorem decodeNoOperand_cases (a : Byte) (i : Instr) :
    (a = 0#8 ∧ decodeNoOperand a i = .ok i) ∨ (a ≠ 0#8 ∧ decodeNoOperand a i = .error .operandNotZero) := by
  unfold decodeNoOperand
  by_cases h : a = 0#8 <;> simp [h]

theorem rdreg_wellFormed {r : Byte} : (Instr.rdreg r).WellFormed ↔ r.toNat ≤ 5 := decide_eq_true_iff

theorem maskByte_high (m : Nibble) : (m.setWidth 8).extractLsb' 4 4 = 0#4 := by
  ext k hk
  simp

theorem maskByte_low (m : Nibble) : (m.setWidth 8).extractLsb' 0 4 = m := by
  ext k hk
  simp [BitVec.getLsbD_eq_getElem hk]
  omega

/-- Every byte that passes ERRCLR's check is the operand byte of its mask (30_encoding R61). -/
theorem maskByte_of_high {a : Byte} (h : a.extractLsb' 4 4 = 0#4) : (a.extractLsb' 0 4).setWidth 8 = a := by
  have hhigh : a.toNat / 16 % 16 = 0 := by simpa [Nat.shiftRight_eq_div_pow] using congrArg BitVec.toNat h
  apply BitVec.eq_of_toNat_eq
  simp only [BitVec.toNat_setWidth, BitVec.extractLsb'_toNat, Nat.shiftRight_zero]
  omega

/-! What the decoder can answer. -/

/-- The conditions of 30_encoding R64 on the opcode and the operand of a word whose `z` is 0. -/
def IllegalFields (op : Nibble) (a : Byte) : Prop :=
  op = 0x0#4 ∨ op = 0xF#4 ∨ (op ∈ [0x2#4, 0x3#4, 0x6#4, 0x7#4, 0x9#4, 0xB#4, 0xE#4] ∧ a ≠ 0#8) ∨
  (op = 0xC#4 ∧ 5 < a.toNat) ∨ (op = 0xD#4 ∧ a.extractLsb' 4 4 ≠ 0#4)

theorem illegalWord_iff (w : CmdWord) : IllegalWord w ↔ zField w ≠ 0#4 ∨ IllegalFields (opField w) (aField w) := by
  have hmask : (aField w).extractLsb' 4 4 = w.extractLsb' 4 4 := by
    unfold aField
    ext k hk
    simp
  unfold IllegalFields
  rw [hmask]
  unfold IllegalWord opField zField aField
  tauto

theorem nibble_eq_ofNat {op : Nibble} {n : Nat} (h : op.toNat = n) : op = BitVec.ofNat 4 n := by
  rw [← h, BitVec.ofNat_toNat, BitVec.setWidth_eq]

/-- The opcode map, format by format: a legal word's command has that word, an illegal one is refused. -/
theorem decodeOp_cases (op : Nibble) (a : Byte) :
    (∃ i, decodeOp op a = .ok i ∧ i.WellFormed ∧ encode i = commandWord op a ∧ ¬IllegalFields op a) ∨
    (∃ e, decodeOp op a = .error e ∧ IllegalFields op a) := by
  unfold decodeOp
  split
  -- CMD-D
  case h_1 h | h_4 h | h_5 h | h_8 h | h_10 h =>
    obtain rfl := nibble_eq_ofNat h
    exact .inl ⟨_, rfl, rfl, rfl, by simp [IllegalFields]⟩
  -- CMD-N
  case h_2 h | h_3 h | h_6 h | h_7 h | h_9 h | h_11 h | h_14 h =>
    obtain rfl := nibble_eq_ofNat h
    obtain ⟨rfl, hok⟩ | ⟨ha, herr⟩ := decodeNoOperand_cases a _
    · exact .inl ⟨_, hok, rfl, rfl, by simp [IllegalFields]⟩
    · exact .inr ⟨_, herr, by simp [IllegalFields, ha]⟩
  -- CMD-R
  case h_12 h =>
    obtain rfl := nibble_eq_ofNat h
    split
    case isTrue hr => exact .inl ⟨_, rfl, rdreg_wellFormed.mpr hr, rfl, by simp [IllegalFields, hr]⟩
    case isFalse hr => exact .inr ⟨_, rfl, by simpa [IllegalFields] using hr⟩
  -- CMD-M
  case h_13 h =>
    obtain rfl := nibble_eq_ofNat h
    split
    case isTrue hm => exact .inl ⟨_, rfl, rfl, by rw [encode, maskByte_of_high hm], by simp [IllegalFields, hm]⟩
    case isFalse hm => exact .inr ⟨_, rfl, by simp [IllegalFields, hm]⟩
  -- the two reserved opcodes
  case h_15 =>
    have hop : op.toNat = 0 ∨ op.toNat = 15 := by
      simp only [imp_false] at *
      omega
    exact .inr ⟨_, rfl, hop.imp nibble_eq_ofNat fun h => .inl (nibble_eq_ofNat h)⟩

/-- `Decode`, inverted: a word is the word of the well-formed command it decodes to, or illegal (30_encoding R64, R65). -/
theorem decode_cases (w : CmdWord) :
    (∃ i, decode w = .ok i ∧ i.WellFormed ∧ encode i = w ∧ ¬IllegalWord w) ∨
    (∃ e, decode w = .error e ∧ IllegalWord w) := by
  rw [illegalWord_iff, decode]
  by_cases hz : zField w = 0#4
  · simpa [hz, commandWord_of_fields hz] using decodeOp_cases (opField w) (aField w)
  · exact .inr ⟨_, if_neg hz, .inl hz⟩

/-! What an illegal word does (45_control R117). -/

theorem illegalCommand_eq (s : State) :
    illegalCommand s = { s with err := s.err ||| 0b1000#4, out := s.out ++ [resp .illegalCommand] } := by
  unfold resp
  rw [← illegalCommand_out s]
  rfl

theorem ofNumber_eq_none {r : Byte} (h : 5 < r.toNat) : Reg.ofNumber r = none := by
  unfold Reg.ofNumber
  split
  case h_7 => rfl
  all_goals omega

/-! The obligations. -/

/-- Settles O2: the decoder reads the fields back (`decode_commandWord`), and the operand of each format passes its check. -/
theorem decodeOfEncodeIsIdentity : Obligations.DecodeOfEncodeIsIdentity := by
  unfold Obligations.DecodeOfEncodeIsIdentity
  intro i hwf
  cases i with
  | rxb d | dfeed d | txb d | escb d | unescb d => exact decode_commandWord _ d
  | rxend | rxrst | txsend | txclr | escend | unescend | srst => exact decode_commandWord _ 0#8
  | rdreg r => exact (decode_commandWord _ r).trans (if_pos (rdreg_wellFormed.mp hwf))
  | errclr m =>
    rw [encode, decode_commandWord]
    exact (if_pos (maskByte_high m)).trans (by rw [maskByte_low])

/-- Settles O3: the first case of `decode_cases`. -/
theorem encodeOfDecodeIsIdentity : Obligations.EncodeOfDecodeIsIdentity := by
  unfold Obligations.EncodeOfDecodeIsIdentity
  intro w i hi
  obtain ⟨j, hj, hwf, henc, -⟩ | ⟨e, he, -⟩ := decode_cases w
  · obtain rfl : j = i := Except.ok.inj (hj.symm.trans hi)
    exact ⟨hwf, henc⟩
  · rw [he] at hi
    cases hi

/-- Settles O4: the two cases of `decode_cases`, and what the step does in each. -/
theorem illegalWordsAreExactlyTheReservedOnes : Obligations.IllegalWordsAreExactlyTheReservedOnes := by
  unfold Obligations.IllegalWordsAreExactlyTheReservedOnes
  intro w
  obtain ⟨i, hi, -, henc, hlegal⟩ | ⟨e, he, hill⟩ := decode_cases w
  · exact ⟨fun hill => absurd hill hlegal, fun _ => ⟨i, hi, henc, fun s => by rw [stepWord, hi]⟩⟩
  · exact ⟨fun _ s => by rw [stepWord, he, illegalCommand_eq], fun hlegal => absurd hill hlegal⟩

/-- Settles O1: each word is a literal, which the decoder evaluates. -/
theorem specWordsDecode : Obligations.SpecWordsDecode := by
  unfold Obligations.SpecWordsDecode
  exact ⟨rfl, rfl, rfl, rfl, rfl, rfl, rfl, rfl⟩

/-- Settles O39: the word carries opcode 0xC and an operand out of range, and no register has the number. -/
theorem rdregAboveFiveIsIllegal : Obligations.RdregAboveFiveIsIllegal := by
  unfold Obligations.RdregAboveFiveIsIllegal
  intro r s h
  constructor
  · have hword : 0xC000#16 ||| r.setWidth 16 = commandWord 0xC#4 r := (commandWord_eq_or 0xC#4 r).symm
    rw [hword, decode_commandWord]
    exact if_neg (by omega)
  · rw [exec, execRdreg, ofNumber_eq_none h, illegalCommand_eq]

end Sys2Proof.Proofs
end

section
/-! The escaped frame on the wire (spec/30_encoding.md R58, R59). -/

open Sys2Proof Sys2Proof.Machine Sys2Proof.Claims

namespace Sys2Proof.Proofs

/-! Escaping a sequence. -/

/-- After byte 0 the escaper's flag is down, so every byte is escaped alone (43_escape R94, R95). -/
theorem escapeFrom_false (p : Policy) (bs : List Byte) : escapeFrom p false bs = bs.flatMap (escOut p false) := by
  induction bs with
  | nil => rfl
  | cons b bs ih => rw [escapeFrom, escByte, ih, List.flatMap_cons]

/-- Byte 0 stays raw (43_escape R94). -/
theorem escape_cons (p : Policy) (b : Byte) (bs : List Byte) :
    escape p (b :: bs) = b :: bs.flatMap (escOut p false) := by
  rw [escape, escapeFrom, escByte, escapeFrom_false]
  rfl

theorem escOut_length (p : Policy) (b : Byte) :
    (escOut p false b).length = 1 + if b ∈ p.reserved then 1 else 0 := by
  obtain ⟨h, -⟩ | ⟨-, hb, h⟩ | ⟨-, hb, h⟩ := escOut_cases p false b
  · cases h
  · simp [h, hb]
  · simp [h, hb]

theorem flatMap_escOut_length (p : Policy) (bs : List Byte) :
    (bs.flatMap (escOut p false)).length = bs.length + bs.countP (fun b => b ∈ p.reserved) := by
  induction bs with
  | nil => rfl
  | cons b bs ih =>
    simp only [List.flatMap_cons, List.length_append, escOut_length, ih, List.length_cons, List.countP_cons, decide_eq_true_eq]
    omega

/-- Where the marker is not DELIM, no byte after byte 0 is put out as DELIM (00_scope R8 (b), (c)). -/
theorem ne_delim_of_mem_escOut {p : Policy} (hm : p.marker ≠ Config.delim) {b c : Byte} (hc : c ∈ escOut p false b) :
    c ≠ Config.delim := by
  obtain ⟨h, -⟩ | ⟨-, hb, h⟩ | ⟨-, hb, h⟩ := escOut_cases p false b
  · cases h
  · rw [h] at hc
    obtain rfl | rfl : c = p.marker ∨ c = b ^^^ p.mask := by simpa using hc
    · exact hm
    · exact escaped_ne_delim p hb
  · obtain rfl : c = b := by simpa [h] using hc
    rintro rfl
    exact hb p.admitted.2.1

/-! The frame. -/

theorem encodeFrame_length (payload : List Byte) : (encodeFrame payload).length = 4 + payload.length := by
  simp [encodeFrame, bigEndian16]
  omega

theorem encodeFrame_eq_cons (payload : List Byte) : encodeFrame payload = 0x7E#8 :: (encodeFrame payload).tail := rfl

theorem wireFrame_eq_cons (payload : List Byte) :
    wireFrame payload = 0x7E#8 :: (encodeFrame payload).tail.flatMap (escOut Config.policy false) := by
  rw [wireFrame, encodeFrame_eq_cons, escape_cons]
  rfl

theorem wireFrame_length (payload : List Byte) :
    (wireFrame payload).length =
      4 + payload.length + (encodeFrame payload).tail.countP (fun b => b ∈ Config.policy.reserved) := by
  have hlen := encodeFrame_length payload
  rw [encodeFrame_eq_cons, List.length_cons] at hlen
  rw [wireFrame_eq_cons, List.length_cons, flatMap_escOut_length]
  omega

/-- Settles O26: byte 0 is the raw DELIM, `escOut` puts out no DELIM after it, and a frame has at most `n + 3` bytes to
lengthen. -/
theorem escapedFrameHasNoInnerDelimiter : Obligations.EscapedFrameHasNoInnerDelimiter := by
  unfold Obligations.EscapedFrameHasNoInnerDelimiter
  intro payload hn
  have hlen := wireFrame_length payload
  have hcount : (encodeFrame payload).tail.countP (fun b => b ∈ Config.policy.reserved) ≤ 3 + payload.length := by
    calc _ ≤ (encodeFrame payload).tail.length := List.countP_le_length
      _ = 3 + payload.length := by rw [List.length_tail, encodeFrame_length]; omega
  refine ⟨?head, ?inner, hlen, by omega, by omega⟩
  case head => rw [wireFrame_eq_cons, List.head?_cons]
  case inner =>
    intro b hb
    rw [wireFrame_eq_cons, List.tail_cons, List.mem_flatMap] at hb
    obtain ⟨a, -, hb⟩ := hb
    exact ne_delim_of_mem_escOut (by decide) hb

end Sys2Proof.Proofs
end

section
/-! Reading a record back from its RXEV beats (spec/30_encoding.md R69). -/

open Sys2Proof Sys2Proof.Machine

namespace Sys2Proof.Proofs

/-! One beat, and a run of them. -/

@[simp] theorem rxBeat_data (k : BitVec 2) (l : Bool) (b : Byte) : (rxBeat k l b).extractLsb' 0 8 = b :=
  BitVec.extractLsb'_append_eq_right

@[simp] theorem rxBeat_kind (k : BitVec 2) (l : Bool) (b : Byte) : (rxBeat k l b).extractLsb' 9 2 = k := by
  apply BitVec.eq_of_getLsbD_eq
  intro i hi
  have hdata : ¬(9 + i < 8) := by omega
  have hlast : ¬(9 + i - 8 < 1) := by omega
  have hkind : 9 + i - 8 - 1 = i := by omega
  simp only [rxBeat, BitVec.getLsbD_extractLsb', BitVec.getLsbD_append, hi, hdata, hlast, hkind]
  simp

theorem rxBeatsOf_data (k : BitVec 2) (bs : List Byte) : (rxBeatsOf k bs).map (·.extractLsb' 0 8) = bs := by
  induction bs with
  | nil => rfl
  | cons b bs ih =>
    cases bs with
    | nil => simp [rxBeatsOf]
    | cons c cs => rw [rxBeatsOf, List.map_cons, rxBeat_data, ih]

theorem rxBeatsOf_kind (k : BitVec 2) (bs : List Byte) :
    (rxBeatsOf k bs).map (·.extractLsb' 9 2) = List.replicate bs.length k := by
  induction bs with
  | nil => rfl
  | cons b bs ih =>
    cases bs with
    | nil => simp [rxBeatsOf]
    | cons c cs => rw [rxBeatsOf, List.map_cons, rxBeat_kind, ih, List.length_cons (a := b), List.replicate_succ]

/-! Bytes of a number, most significant first (20_memory R44). -/

theorem bytes_append16 (n : Len) : n.extractLsb' 8 8 ++ n.extractLsb' 0 8 = n := by
  calc n.extractLsb' 8 8 ++ n.extractLsb' 0 8 = n.extractLsb' 0 16 :=
        BitVec.extractLsb'_append_extractLsb'_eq_extractLsb' (by rfl)
    _ = n := BitVec.extractLsb'_eq_self

theorem bytes_append24 (n : Word24) : n.extractLsb' 16 8 ++ (n.extractLsb' 8 8 ++ n.extractLsb' 0 8) = n := by
  calc n.extractLsb' 16 8 ++ (n.extractLsb' 8 8 ++ n.extractLsb' 0 8) = n.extractLsb' 16 8 ++ n.extractLsb' 0 16 :=
        congrArg _ (BitVec.extractLsb'_append_extractLsb'_eq_extractLsb' (by rfl))
    _ = n.extractLsb' 0 24 := BitVec.extractLsb'_append_extractLsb'_eq_extractLsb' (by rfl)
    _ = n := BitVec.extractLsb'_eq_self

theorem bigEndian16_injective : Function.Injective bigEndian16 := by
  intro m n h
  obtain ⟨h1, h0⟩ : m.extractLsb' 8 8 = n.extractLsb' 8 8 ∧ m.extractLsb' 0 8 = n.extractLsb' 0 8 := by
    simpa [bigEndian16] using h
  rw [← bytes_append16 m, ← bytes_append16 n, h1, h0]

theorem bigEndian24_injective : Function.Injective bigEndian24 := by
  intro m n h
  obtain ⟨h2, h1, h0⟩ : m.extractLsb' 16 8 = n.extractLsb' 16 8 ∧ m.extractLsb' 8 8 = n.extractLsb' 8 8 ∧
      m.extractLsb' 0 8 = n.extractLsb' 0 8 := by
    simpa [bigEndian24] using h
  rw [← bytes_append24 m, ← bytes_append24 n, h2, h1, h0]

/-! A record from its kind and its data bytes. -/

theorem data_ne_nil (e : RxEvent) : e.data ≠ [] := by
  cases e <;> simp [RxEvent.data, bigEndian16]

theorem data_eq_of_beats_eq {e f : RxEvent} (h : e.beats = f.beats) : e.data = f.data := by
  rw [← rxBeatsOf_data e.kind e.data, ← rxBeatsOf_data f.kind f.data]
  exact congrArg _ h

theorem kind_eq_of_beats_eq {e f : RxEvent} (h : e.beats = f.beats) : e.kind = f.kind := by
  have hkinds : List.replicate e.data.length e.kind = List.replicate f.data.length f.kind := by
    rw [← rxBeatsOf_kind, ← rxBeatsOf_kind]
    exact congrArg _ h
  have hmem : e.kind ∈ List.replicate f.data.length f.kind := by
    rw [← hkinds]
    simp [data_ne_nil]
  exact List.eq_of_mem_replicate hmem

theorem eq_of_kind_data_eq {e f : RxEvent} (hk : e.kind = f.kind) (hd : e.data = f.data) : e = f := by
  cases e with
  | accept c =>
    cases f with
    | accept c' =>
      have hc : c = c' := List.append_inj_right hd rfl
      rw [hc]
    | mismatch | desync => cases hk
  | mismatch l c s k =>
    cases f with
    | mismatch l' c' s' k' =>
      obtain ⟨hlcs, hk⟩ := List.append_inj' hd rfl
      obtain ⟨hlc, hs⟩ := List.append_inj' hlcs rfl
      obtain ⟨hl, hc⟩ := List.append_inj hlc rfl
      rw [bigEndian16_injective hl, hc, bigEndian24_injective hs, List.singleton_inj.mp hk]
    | accept | desync => cases hk
  | desync =>
    cases f with
    | desync => rfl
    | accept | mismatch => cases hk

/-- Settles O58: the beats show the record's kind and its data bytes, which determine it. -/
theorem rxevBeatsDetermineTheRecord : Obligations.RxevBeatsDetermineTheRecord := by
  unfold Obligations.RxevBeatsDetermineTheRecord
  exact fun e f h => eq_of_kind_data_eq (kind_eq_of_beats_eq h) (data_eq_of_beats_eq h)

end Sys2Proof.Proofs
end

section
/-! A command written out is read back (spec/30_encoding.md R71). -/

open Sys2Proof Sys2Proof.Machine

namespace Sys2Proof.Proofs

/-! The operand. -/

theorem hexDigit_hexChar : ∀ n : Nibble, hexDigit (hexChar n) = some n.toNat := by decide

theorem hexChar_not_blank : ∀ n : Nibble, isBlank (hexChar n) = false := by decide

theorem hexChar_not_comment : ∀ n : Nibble, hexChar n ≠ ';' := by decide

theorem readNumber_byteText (b : Byte) : readNumber (byteText b) = some b.toNat := by
  have hjoin : (b.extractLsb' 4 4).toNat * 16 + (b.extractLsb' 0 4).toNat = b.toNat := by
    simp only [BitVec.extractLsb'_toNat, Nat.shiftRight_eq_div_pow]
    omega
  simpa [readNumber, byteText, readDigits, hexDigit_hexChar] using hjoin

theorem readBounded_byteText {b : Byte} {bound : Nat} (h : b.toNat ≤ bound) :
    readBounded bound (byteText b) = some b.toNat := by
  rw [readBounded, readNumber_byteText]
  exact if_pos h

theorem withByte_byteText (mk : Byte → Instr) (b : Byte) : withByte mk [byteText b] = some [mk b] := by
  rw [withByte, readBounded_byteText (by omega), Option.map_some, BitVec.ofNat_toNat, BitVec.setWidth_eq]

theorem withRegister_byteText {r : Byte} (h : r.toNat ≤ 5) : withRegister [byteText r] = some [.rdreg r] := by
  have hnumber : readRegister (byteText r) = (readBounded 5 (byteText r)).map (BitVec.ofNat 8) := by
    simp [readRegister, byteText]
  rw [withRegister, hnumber, readBounded_byteText h, Option.map_some, Option.map_some, BitVec.ofNat_toNat, BitVec.setWidth_eq]

theorem withMask_byteText (m : Nibble) : withMask [byteText (m.setWidth 8)] = some [.errclr m] := by
  have hm : (m.setWidth 8).toNat = m.toNat := by simp; omega
  rw [withMask, readBounded_byteText (by omega), hm, Option.map_some, BitVec.ofNat_toNat, BitVec.setWidth_eq]

/-! The words of a line. -/

/-- Text that a line keeps together as one word. -/
structure IsWord (cs : List Char) : Prop where
  ne_nil : cs ≠ []
  not_blank : ∀ c ∈ cs, isBlank c = false
  not_comment : ∀ c ∈ cs, c ≠ ';'

theorem name_isWord (m : Mnemonic) : IsWord m.name where
  ne_nil := by cases m <;> exact List.cons_ne_nil _ _
  not_blank := by cases m <;> simp [Mnemonic.name, isBlank]
  not_comment := by cases m <;> simp [Mnemonic.name]

theorem byteText_isWord (b : Byte) : IsWord (byteText b) where
  ne_nil := List.cons_ne_nil _ _
  not_blank := by
    have h0 : isBlank '0' = false := by decide
    have hx : isBlank 'x' = false := by decide
    simp [byteText, hexChar_not_blank, h0, hx]
  not_comment := by simp [byteText, hexChar_not_comment]

theorem stripComment_of_forall_ne {cs : List Char} (h : ∀ c ∈ cs, c ≠ ';') : stripComment cs = cs := by
  induction cs with
  | nil => rfl
  | cons c cs ih =>
    obtain ⟨hc, hcs⟩ := List.forall_mem_cons.mp h
    rw [stripComment, if_neg hc, ih hcs]

/-- The word being read takes up the text before the next blank. -/
theorem splitWords_append {cs : List Char} (h : ∀ c ∈ cs, isBlank c = false) (cur rest : List Char) :
    splitWords cur (cs ++ rest) = splitWords (cs.reverse ++ cur) rest := by
  induction cs generalizing cur with
  | nil => rfl
  | cons c cs ih =>
    obtain ⟨hc, hcs⟩ := List.forall_mem_cons.mp h
    rw [List.cons_append, splitWords, hc, if_neg Bool.false_ne_true, ih hcs, List.reverse_cons, List.append_assoc]
    rfl

theorem splitWords_word {cs : List Char} (h : IsWord cs) : splitWords [] cs = [cs] := by
  simpa [splitWords, h.ne_nil] using splitWords_append h.not_blank [] []

theorem splitWords_two {cs ds : List Char} (hc : IsWord cs) (hd : IsWord ds) :
    splitWords [] (cs ++ ' ' :: ds) = [cs, ds] := by
  rw [splitWords_append hc.not_blank]
  simp [splitWords, isBlank, hc.ne_nil, splitWords_word hd]

/-! The line. -/

theorem readListingWord_name (m : Mnemonic) : readListingWord m.name = none := by
  cases m <;> decide

theorem readMnemonic_name (m : Mnemonic) : readMnemonic m.name = some m := by
  cases m <;> decide

/-- A line whose words are a name and its operands is what the name makes of the operands. -/
theorem assembleLine_of_words {line : List Char} {m : Mnemonic} {args : List (List Char)}
    (h : splitWords [] (stripComment line) = m.name :: args) : assembleLine line = assembleCommand m args := by
  rw [assembleLine, h]
  simp [readListingWord_name, assembleWords, readMnemonic_name]

theorem assembleLine_name (m : Mnemonic) : assembleLine m.name = assembleCommand m [] := by
  have hm := name_isWord m
  apply assembleLine_of_words
  rw [stripComment_of_forall_ne hm.not_comment, splitWords_word hm]

theorem assembleLine_withOperand (m : Mnemonic) (b : Byte) :
    assembleLine (withOperand m b) = assembleCommand m [byteText b] := by
  have hm := name_isWord m
  have hb := byteText_isWord b
  have hline : withOperand m b = m.name ++ ' ' :: byteText b := (List.append_cons _ _ _).symm
  have hplain : ∀ c ∈ m.name ++ ' ' :: byteText b, c ≠ ';' := by
    rw [List.forall_mem_append, List.forall_mem_cons]
    exact ⟨hm.not_comment, by decide, hb.not_comment⟩
  apply assembleLine_of_words
  rw [hline, stripComment_of_forall_ne hplain, splitWords_two hm hb]

/-- Settles O59: the line's words are the mnemonic and the operand's text, and each operand form reads `0x`
and two digits back. -/
theorem writtenCommandsAreReadBack : Obligations.WrittenCommandsAreReadBack := by
  unfold Obligations.WrittenCommandsAreReadBack
  intro i hwf
  cases i with
  | rxb d | dfeed d | txb d | escb d | unescb d => exact (assembleLine_withOperand _ d).trans (withByte_byteText _ d)
  | rxend | rxrst | txsend | txclr | escend | unescend | srst =>
    rw [asmText, assembleLine_name]
    rfl
  | rdreg r => exact (assembleLine_withOperand _ r).trans (withRegister_byteText (rdreg_wellFormed.mp hwf))
  | errclr m => exact (assembleLine_withOperand _ _).trans (withMask_byteText m)

end Sys2Proof.Proofs
end

section
/-! The frame decoder: DFEED in each mode (spec/41_decoder.md R76–R80), a whole frame (R83) and noise (R84). -/

open Sys2Proof Sys2Proof.Machine Sys2Proof.Claims

namespace Sys2Proof.Proofs

/-! The length field from its two bytes. -/

/-- Two bytes most significant first (20_memory R43). -/
theorem append_toNat (h l : Byte) : (h ++ l).toNat = h.toNat * 256 + l.toNat := by
  rw [BitVec.toNat_append, ← Nat.shiftLeft_add_eq_or_of_lt l.isLt, Nat.shiftLeft_eq]

/-- The second length byte completes the length (41_decoder R78). -/
theorem append_zero_or (h l : Byte) : h ++ 0#8 ||| l.setWidth 16 = h ++ l := by
  apply BitVec.eq_of_toNat_eq
  have hl : l.toNat % 2 ^ 16 = l.toNat := by omega
  rw [BitVec.toNat_or, BitVec.toNat_append, BitVec.toNat_append, BitVec.toNat_setWidth, hl, BitVec.toNat_zero, Nat.or_zero]

/-- The first length byte is the high one (41_decoder R77). -/
theorem shiftedByte_eq_append (b : Byte) : b.setWidth 16 <<< 8 = b ++ 0#8 := by
  apply BitVec.eq_of_toNat_eq
  have hb := b.isLt
  simp only [BitVec.toNat_shiftLeft, BitVec.toNat_setWidth, append_toNat, BitVec.toNat_ofNat, Nat.shiftLeft_eq]
  omega

/-! One decoder step, by mode. -/

section Mode

variable {d : DecState}

theorem decFeed_seeking (h : d.mode = .seekingDelimiter) (b : Byte) : decFeed d b = (feedSeeking d b, none) := by
  simp only [decFeed, h]

theorem decFeed_lengthMsb (h : d.mode = .readingLengthMsb) (b : Byte) : decFeed d b = (feedLengthMsb d b, none) := by
  simp only [decFeed, h]

theorem decFeed_lengthLsb (h : d.mode = .readingLengthLsb) (b : Byte) : decFeed d b = (feedLengthLsb d b, none) := by
  simp only [decFeed, h]

theorem decFeed_payload (h : d.mode = .readingPayload) (b : Byte) : decFeed d b = (feedPayload d b, none) := by
  simp only [decFeed, h]

theorem decFeed_checksum (h : d.mode = .readingChecksum) (b : Byte) :
    decFeed d b = (decReset, some { length := d.len, contents := d.buf, bytesum := d.sum, checksum := b }) := by
  simp only [decFeed, h]

theorem feedSeeking_of_ne_delim {b : Byte} (h : b ≠ 0x7E#8) : feedSeeking d b = d := if_neg h

end Mode

/-! DFEED, by whether its byte completes a frame. -/

section Dfeed

variable {b : Byte} {s : State} {e : DecState}

theorem exec_dfeed_of_no_frame (h : decFeed s.dec b = (e, none)) :
    exec (.dfeed b) s = .next { s with dec := e, out := s.out ++ [okResp] } := by
  simp only [exec, execDfeed, feedDecoder, h]
  rfl

theorem exec_dfeed_of_frame {f : Frame} (h : decFeed s.dec b = (e, some f)) :
    exec (.dfeed b) s = .next (respond .ok 0#24 (complete f { s with dec := e })) := by
  simp only [exec, execDfeed, feedDecoder, h]
  rfl

end Dfeed

/-- Settles O10: DELIM loads the reset decoder in its next mode, any other byte is discarded by `feedSeeking`. -/
theorem dfeedSeeking : Obligations.DfeedSeeking := by
  unfold Obligations.DfeedSeeking
  intro b s hm
  exact exec_dfeed_of_no_frame (decFeed_seeking hm b)

/-- Settles O11: neither length byte completes a frame, and the first one, shifted, is the high byte. -/
theorem dfeedLengthBytes : Obligations.DfeedLengthBytes := by
  unfold Obligations.DfeedLengthBytes
  refine fun b s => ⟨fun hm => ?_, fun hm => exec_dfeed_of_no_frame (decFeed_lengthLsb hm b)⟩
  rw [exec_dfeed_of_no_frame (decFeed_lengthMsb hm b), feedLengthMsb, shiftedByte_eq_append]

/-- Where a payload byte is due the count is at least 1, so counting down does not wrap (10_state R21). -/
theorem remain_sub_one {d : DecState} (h : d.Inv) (hm : d.mode = .readingPayload) :
    (d.remain - 1#16).toNat + 1 = d.remain.toNat := by
  simp only [DecState.Inv, hm] at h
  obtain ⟨hpos, -⟩ := h
  bv_omega

/-- Settles O12: the sum is exact and the count does not go below 0 where R21 holds; the count reaches 0 from 1 only. -/
theorem dfeedPayloadIsExact : Obligations.DfeedPayloadIsExact := by
  unfold Obligations.DfeedPayloadIsExact
  rintro b s ⟨hdec, -⟩ hm
  refine ⟨feedPayload s.dec b, exec_dfeed_of_no_frame (decFeed_payload hm b), rfl, hdec.sum_exact hm b,
    remain_sub_one hdec hm, rfl, ?_⟩
  have hlast : s.dec.remain - 1#16 = 0#16 ↔ s.dec.remain = 1#16 := sub_eq_zero
  simp only [feedPayload, hlast]

/-- The identity of 44_manager R105, as a remainder. -/
theorem valid_iff (sum : Word24) (c : Byte) : valid sum c = true ↔ (sum.toNat % 256 + c.toNat) % 256 = 255 := by
  have hmask (n : Nat) : n &&& 0xFF = n % 256 := Nat.and_two_pow_sub_one_eq_mod n 8
  simp only [valid, hmask, beq_iff_eq]

/-- Settles O13: the checksum byte completes the frame of the collected fields, and `complete_cases` is its verdict. -/
theorem dfeedChecksumCompletesTheFrame : Obligations.DfeedChecksumCompletesTheFrame := by
  unfold Obligations.DfeedChecksumCompletesTheFrame
  intro b s hm
  rw [exec_dfeed_of_frame (decFeed_checksum hm b)]
  simp only [← valid_iff]
  obtain ⟨hv, e⟩ | ⟨hv, e⟩ := complete_cases ⟨s.dec.len, s.dec.buf, s.dec.sum, b⟩ { s with dec := decReset }
  · rw [e, if_pos hv]
    simp [respond, emit, okResp, decReset, DecState.reset]
  · rw [e, if_neg (Bool.eq_false_iff.1 hv)]
    simp [respond, emit, okResp, decReset, DecState.reset, setFlag, ErrFlag.bit]

/-! Byte sequences. -/

theorem decFeedAll_append (d : DecState) (as bs : List Byte) :
    decFeedAll d (as ++ bs) =
      ((decFeedAll (decFeedAll d as).1 bs).1, (decFeedAll d as).2 ++ (decFeedAll (decFeedAll d as).1 bs).2) := by
  induction as generalizing d with
  | nil => rfl
  | cons a as ih => simp [decFeedAll, ih]

theorem decFeedAll_cons_of_no_frame {d e : DecState} {b : Byte} (h : decFeed d b = (e, none)) (bs : List Byte) :
    decFeedAll d (b :: bs) = decFeedAll e bs := by
  simp [decFeedAll, h]

theorem decFeedAll_noise {d : DecState} (hm : d.mode = .seekingDelimiter) {noise : List Byte} (h : ∀ b ∈ noise, b ≠ 0x7E#8) :
    decFeedAll d noise = (d, []) := by
  induction noise with
  | nil => rfl
  | cons b bs ih =>
    obtain ⟨hb, hbs⟩ := List.forall_mem_cons.1 h
    rw [decFeedAll_cons_of_no_frame (decFeed_seeking hm b), feedSeeking_of_ne_delim hb, ih hbs]

/-- Settles O15: each noise byte leaves the decoder as it is, so what follows starts from the same decoder. -/
theorem noiseDoesNotChangeDecoding : Obligations.NoiseDoesNotChangeDecoding := by
  unfold Obligations.NoiseDoesNotChangeDecoding
  refine fun d noise bs hm => ⟨fun h => ?_, ?delim⟩
  case delim => rw [decFeed_seeking hm]; rfl
  have hnoise := decFeedAll_noise hm h
  exact ⟨hnoise, by rw [decFeedAll_append, hnoise]; rfl⟩

/-- The decoder with `remain` payload bytes due, and with the checksum due when none is (41_decoder R78, R79). -/
def collecting (len remain : Len) (sum : Word24) (buf : List Byte) : DecState :=
  { mode := if remain = 0#16 then .readingChecksum else .readingPayload, len, remain, sum, buf }

/-- After DELIM and the two length bytes the payload of that length is due (41_decoder R76–R78). -/
theorem decFeedAll_header {d : DecState} (hm : d.mode = .seekingDelimiter) (h l : Byte) (bs : List Byte) :
    decFeedAll d ([0x7E#8, h, l] ++ bs) = decFeedAll (collecting (h ++ l) (h ++ l) 0#24 []) bs := by
  have hdelim : feedSeeking d 0x7E#8 = { decReset with mode := .readingLengthMsb } := rfl
  rw [List.cons_append, decFeedAll_cons_of_no_frame (decFeed_seeking hm _), hdelim,
    List.cons_append, decFeedAll_cons_of_no_frame (decFeed_lengthMsb rfl h),
    List.cons_append, decFeedAll_cons_of_no_frame (decFeed_lengthLsb rfl l)]
  simp only [feedLengthLsb, feedLengthMsb, shiftedByte_eq_append, append_zero_or]
  rfl

/-- The payload that is due is collected and summed, and yields nothing (41_decoder R79). -/
theorem decFeedAll_collecting {remain : Len} {payload : List Byte} (hlen : payload.length = remain.toNat) (len : Len)
    (sum : Word24) (buf : List Byte) :
    decFeedAll (collecting len remain sum buf) payload =
      (collecting len 0#16 (sum + BitVec.ofNat 24 (byteSum payload)) (buf ++ payload), []) := by
  induction payload generalizing remain sum buf with
  | nil =>
    obtain rfl : remain = 0#16 := BitVec.eq_of_toNat_eq hlen.symm
    simp [decFeedAll, byteSum]
  | cons b bs ih =>
    rw [List.length_cons] at hlen
    have hne : remain ≠ 0#16 := by rintro rfl; simp at hlen
    have hrest : bs.length = (remain - 1#16).toNat := by bv_omega
    have hmode : (collecting len remain sum buf).mode = .readingPayload := if_neg hne
    have hsum : sum + b.setWidth 24 + BitVec.ofNat 24 (byteSum bs) = sum + BitVec.ofNat 24 (byteSum (b :: bs)) := by
      rw [BitVec.add_assoc, byteSum, BitVec.ofNat_add, BitVec.ofNat_toNat]
    have hbuf : buf ++ [b] ++ bs = buf ++ b :: bs := by simp
    rw [decFeedAll_cons_of_no_frame (decFeed_payload hmode b), ← hsum, ← hbuf]
    exact ih hrest _ _

/-- Settles O14: the header makes the payload due, the payload makes the checksum due, and the checksum yields the frame. -/
theorem decoderYieldsTheFrameAtItsLastByte : Obligations.DecoderYieldsTheFrameAtItsLastByte := by
  unfold Obligations.DecoderYieldsTheFrameAtItsLastByte
  intro d h l c payload hm hlen
  have hdue : payload.length = (h ++ l).toNat := hlen.trans (append_toNat h l).symm
  have hbefore : decFeedAll d ([0x7E#8, h, l] ++ payload) =
      (collecting (h ++ l) 0#16 (BitVec.ofNat 24 (byteSum payload)) payload, []) := by
    rw [decFeedAll_header hm, decFeedAll_collecting hdue, BitVec.zero_add, List.nil_append]
  refine ⟨congrArg Prod.snd hbefore, ?_⟩
  rw [decFeedAll_append, hbefore]
  rfl

end Sys2Proof.Proofs
end

section
/-! Every record on RXEV tells the truth: the frames the decoder completes are exact (spec/41_decoder.md R73), and the verdict on
an exact frame is honest (spec/44_manager.md R107). -/

open Sys2Proof Sys2Proof.Machine Sys2Proof.Claims

namespace Sys2Proof.Proofs

/-- A frame's length and sum are those of its contents (41_decoder R73). -/
def FrameExact (f : Frame) : Prop := f.contents.length = f.length.toNat ∧ f.bytesum.toNat = byteSum f.contents

/-- Where the decoder's invariant holds, a completed frame is exact. -/
theorem decFeed_frameExact {d : DecState} (h : d.Inv) {b : Byte} {f : Frame} (hf : (decFeed d b).2 = some f) :
    FrameExact f := by
  cases hm : d.mode with
  | readingChecksum =>
    rw [decFeed_checksum hm] at hf
    cases hf
    simp only [DecState.Inv, hm] at h
    obtain ⟨-, hlen, hsum⟩ := h
    exact ⟨hlen, hsum⟩
  | seekingDelimiter | readingLengthMsb | readingLengthLsb | readingPayload => simp [decFeed, hm] at hf

section Honest

variable {s : State}

theorem honest_of_rxev_eq {t : State} (h : s.RxevHonest) (hr : t.rxev = s.rxev) : t.RxevHonest := by
  rwa [State.RxevHonest, hr]

theorem emit_rxev_honest (h : s.RxevHonest) {e : RxEvent} (he : e.Honest) : (emit [.rxev e] s).RxevHonest := by
  have hrxev : (emit [.rxev e] s).rxev = s.rxev ++ [e] := rxevOf_append _ _
  rw [State.RxevHonest, hrxev]
  exact List.forall_mem_append.2 ⟨h, List.forall_mem_singleton.2 he⟩

/-- Both verdicts on an exact frame are honest: its length field bounds an accepted payload. -/
theorem complete_honest (h : s.RxevHonest) {f : Frame} (hf : FrameExact f) : (complete f s).RxevHonest := by
  obtain ⟨hlen, hsum⟩ := hf
  obtain ⟨-, e⟩ | ⟨hv, e⟩ := complete_cases f s <;> rw [e]
  · have hmax : f.contents.length ≤ Config.maxLen := hlen ▸ Nat.le_of_lt_succ f.length.isLt
    exact emit_rxev_honest h (e := .accept f.contents) hmax
  · exact emit_rxev_honest h (e := .mismatch f.length f.contents f.bytesum f.checksum) ⟨hlen, hsum, hv⟩

theorem completeAny_honest (h : s.RxevHonest) {o : Option Frame} (ho : ∀ f, o = some f → FrameExact f) :
    (completeAny o s).RxevHonest := by
  cases o with
  | none => exact h
  | some f => exact complete_honest h (ho f rfl)

theorem feedDecoder_honest (h : s.RxevHonest) (hdec : s.dec.Inv) (b : Byte) : (feedDecoder b s).RxevHonest :=
  completeAny_honest (s := { s with dec := (decFeed s.dec b).1 }) h fun _ hf => decFeed_frameExact hdec hf

theorem feedDecoderAny_honest (h : s.RxevHonest) (hdec : s.dec.Inv) (o : Option Byte) :
    (feedDecoderAny o s).RxevHonest := by
  cases o with
  | none => exact h
  | some b => exact feedDecoder_honest h hdec b

theorem reportDesync_honest (h : s.RxevHonest) (c : Bool) : (reportIf c .escapeDesyncRx s).RxevHonest := by
  cases c with
  | false => exact h
  | true => exact emit_rxev_honest h (e := .desync) trivial

theorem respond_honest (h : s.RxevHonest) (st : Status) (v : Word24) : (respond st v s).RxevHonest :=
  honest_of_rxev_eq h (respond_rxev st v s)

end Honest

/-- Only the RX path emits on RXEV. -/
theorem exec_rxev_of_not_rx {i : Instr} (hi : pathOf i ≠ some .rx) {s t : State} (ht : exec i s = .next t) :
    t.rxev = s.rxev := by
  cases hp : pathOf i with
  | none =>
    obtain ⟨st, v, u, e, -, hout⟩ := exec_control hp s
    obtain rfl := Host.Outcome.next.inj (e.symm.trans ht)
    rw [respond_rxev, State.rxev, hout, State.rxev]
  | some p =>
    obtain ⟨st, e, he, rfl⟩ := eq_respond_apply hp ht
    rw [respond_rxev, he.rxev_apply (fun hrx => hi (hp.trans (congrArg some hrx)))]

/-- Every command keeps RXEV honest where the decoder's invariant holds. -/
theorem exec_honest {i : Instr} {s t : State} (hdec : s.dec.Inv) (h : s.RxevHonest) (ht : exec i s = .next t) :
    t.RxevHonest := by
  by_cases hi : pathOf i = some .rx
  case neg => exact honest_of_rxev_eq h (exec_rxev_of_not_rx hi ht)
  cases i with
  | rxb b =>
    cases ht
    have hreport := reportDesync_honest (s := { s with rxu := (unescStep Config.policy s.rxu b).next }) h
      (unescStep Config.policy s.rxu b).desync
    exact respond_honest (feedDecoderAny_honest hreport (by rwa [reportIf_dec]) _) _ _
  | rxend =>
    cases ht
    exact respond_honest (reportDesync_honest (s := { s with rxu := unescEndState }) h _) _ _
  | rxrst =>
    cases ht
    exact respond_honest (s := { s with dec := decReset, rxu := { first := true, pend := false } }) h _ _
  | dfeed b =>
    cases ht
    exact respond_honest (feedDecoder_honest h hdec b) _ _
  | txb | txsend | txclr | escb | escend | unescb | unescend | rdreg | errclr | srst => cases hi

theorem stepWord_honest {w : CmdWord} {s t : State} (hdec : s.dec.Inv) (h : s.RxevHonest) (ht : stepWord w s = .next t) :
    t.RxevHonest := by
  obtain ⟨i, -, e⟩ | e := stepWord_cases w s <;> rw [e] at ht
  · exact exec_honest hdec h ht
  · cases ht
    exact honest_of_rxev_eq h (by simp [State.rxev, rxevOf])

theorem step_honest {s t : State} (hdec : s.dec.Inv) (h : s.RxevHonest) (ht : step s = .next t) : t.RxevHonest := by
  obtain ⟨-, e⟩ | ⟨rest, -, e⟩ | ⟨w, rest, -, e⟩ := step_cases s <;> rw [e] at ht
  · cases ht
    exact h
  · cases ht
    exact h
  · exact stepWord_honest (s := { s with input := rest }) hdec h ht

/-- Settles O53: the invariant is kept by O52, and the decoder's part of it makes each new record honest. -/
theorem rxevRecordsStayHonest : Obligations.RxevRecordsStayHonest := by
  unfold Obligations.RxevRecordsStayHonest
  intro s t hinv h ht
  have ⟨hdec, _⟩ := hinv
  exact ⟨stepKeepsTheInvariant s t hinv ht, step_honest hdec h ht⟩

end Sys2Proof.Proofs
end

section
/-! The frame encoder with its checksum (spec/42_encoder.md R87–R89), and the commands of the transmit path (R90–R92). -/

open Sys2Proof Sys2Proof.Machine Sys2Proof.Claims

namespace Sys2Proof.Proofs

/-! The encoder. -/

/-- The generated checksum as a number (42_encoder R87). -/
theorem csumGen_toNat (payload : List Byte) : (csumGen payload).toNat = 255 - byteSum payload % 256 := by
  have hmask : byteSum payload &&& 0xFF = byteSum payload % 256 := Nat.and_two_pow_sub_one_eq_mod _ 8
  rw [csumGen, hmask, BitVec.toNat_ofNat]
  omega

/-- Settles O24: modulo 256 the 24-bit sum is the sum, and one byte alone adds up to 0xFF with its remainder. -/
theorem generatedChecksumIsTheOneAccepted : Obligations.GeneratedChecksumIsTheOneAccepted := by
  unfold Obligations.GeneratedChecksumIsTheOneAccepted
  intro payload
  have hgen := csumGen_toNat payload
  refine ⟨by omega, fun c => ?_⟩
  rw [valid_iff, BitVec.toNat_ofNat, ← BitVec.toNat_inj, hgen]
  omega

/-- Settles O25: the two length bytes put together are the length, which 16 bits hold. -/
theorem encodedFrameLayout : Obligations.EncodedFrameLayout := by
  unfold Obligations.EncodedFrameLayout
  intro payload hn
  let n : Len := BitVec.ofNat 16 payload.length
  refine ⟨n.extractLsb' 8 8, n.extractLsb' 0 8, csumGen payload, rfl, ?length, csumGen_toNat payload, ?count⟩
  case length =>
    rw [← append_toNat, bytes_append16, BitVec.toNat_ofNat]
    omega
  case count => rw [encodeFrame_length, Nat.add_comm]

/-! The transmit path. -/

/-- What a violated precondition does (60_exceptions R121). -/
theorem respond_report_preconditionViolation (s : State) :
    respond .preconditionViolation 0#24 (report .preconditionViolation s) =
      { s with err := s.err ||| 0b0100#4, out := s.out ++ [resp .preconditionViolation] } := by
  simp [respond, report, emit, Report.records, Report.flag, setFlag, ErrFlag.bit, resp]

/-- `last` stands at the final position and at no other (10_state R32). -/
theorem map_txout_txRecords (bs : List Byte) :
    (txRecords bs).map Output.txout = bs.mapIdx fun i b => .txout { last := i == bs.length - 1, data := b } := by
  induction bs with
  | nil => rfl
  | cons b bs ih =>
    cases bs with
    | nil => rfl
    | cons c cs => simp [txRecords, ih, List.mapIdx_cons]

/-- Settles O27: the three cases of `execTxb_cases`; while poisoned, setting the poison again changes nothing. -/
theorem txbAppendsOrPoisons : Obligations.TxbAppendsOrPoisons := by
  unfold Obligations.TxbAppendsOrPoisons
  intro d s
  constructor
  · have hword : 0x5000#16 ||| d.setWidth 16 = commandWord 0x5#4 d := (commandWord_eq_or 0x5#4 d).symm
    rw [hword]
    exact decode_commandWord 0x5#4 d
  rw [exec]
  obtain ⟨hp, e⟩ | ⟨hl, e⟩ | ⟨hp, hl, e⟩ := execTxb_cases d s
  · have htx : { buf := s.tx.buf, poison := true } = s.tx := by rw [← hp]
    rw [e, if_pos (.inl hp), respond_report_preconditionViolation, htx]
  · rw [e, if_pos (.inr hl), respond_report_preconditionViolation]
  · have hroom : ¬(s.tx.poison = true ∨ s.tx.buf.length = 65535) := not_or.2 ⟨Bool.eq_false_iff.1 hp, hl⟩
    rw [e, if_neg hroom, ← hp]
    rfl

/-- Settles O28: the two cases of `execTxsend_cases`; the bounds are those of O26 on a buffer within its capacity. -/
theorem txsendSendsTheWholeFrame : Obligations.TxsendSendsTheWholeFrame := by
  unfold Obligations.TxsendSendsTheWholeFrame
  refine fun s => ⟨rfl, ?exec, ?bounds⟩
  case exec =>
    rw [exec]
    obtain ⟨hp, e⟩ | ⟨hp, e⟩ := execTxsend_cases s
    · rw [e, if_pos hp, respond_report_preconditionViolation]
    · rw [e, if_neg (Bool.eq_false_iff.1 hp), ← wireFrame, map_txout_txRecords]
      rfl
  case bounds =>
    rintro ⟨hcap, -⟩
    obtain ⟨-, -, -, hmin, hmax⟩ := escapedFrameHasNoInnerDelimiter s.tx.buf hcap
    exact ⟨hmin, hmax⟩

/-- Settles O29: the command's word is a literal, and its one case is the definition. -/
theorem txclrDiscardsThePayload : Obligations.TxclrDiscardsThePayload := by
  unfold Obligations.TxclrDiscardsThePayload
  exact fun s => ⟨rfl, rfl⟩

end Sys2Proof.Proofs
end

section
/-! Escape and unescape (spec/43_escape.md): the whole-sequence functions (R94–R99), the standalone commands byte by byte
(R101–R104) and their runs (30_encoding R72). -/

open Sys2Proof Sys2Proof.Machine Sys2Proof.Claims

namespace Sys2Proof.Proofs

/-! Escaping a sequence. -/

theorem escOut_false_eq_ite (p : Policy) (b : Byte) :
    escOut p false b = if b ∈ p.reserved then [p.marker, b ^^^ p.mask] else [b] := by
  obtain ⟨h, -⟩ | ⟨-, hb, h⟩ | ⟨-, hb, h⟩ := escOut_cases p false b
  · cases h
  · rw [h, if_pos hb]
  · rw [h, if_neg hb]

/-- Settles O36: byte 0 is raw (`escape_cons`), and each later byte is put out by `escOut` on its own. -/
theorem escapeFoldsFromTheFirstByte : Obligations.EscapeFoldsFromTheFirstByte := by
  unfold Obligations.EscapeFoldsFromTheFirstByte
  intro p bs
  cases bs with
  | nil => exact ⟨rfl, rfl⟩
  | cons b bs =>
    rw [escape_cons, List.length_cons, flatMap_escOut_length]
    refine ⟨?closed, ?length⟩
    case closed => simp [funext (escOut_false_eq_ite p)]
    case length =>
      rw [List.length_cons, List.tail_cons]
      omega

/-! Unescaping an escaped sequence. -/

section Unescape

variable (p : Policy)

theorem unescStep_of_first (pend : Bool) (b : Byte) :
    unescStep p ⟨true, pend⟩ b = { next := ⟨false, false⟩, out := some b, desync := false } := rfl

theorem unescStep_marker :
    unescStep p ⟨false, false⟩ p.marker = { next := ⟨false, true⟩, out := none, desync := false } := by
  simp [unescStep]

variable {p} {b : Byte}

theorem unescStep_of_pend (h : b ≠ Config.delim) :
    unescStep p ⟨false, true⟩ b = { next := ⟨false, false⟩, out := some (b ^^^ p.mask), desync := false } := by
  simp [unescStep, h]

theorem unescStep_of_ne_marker (h : b ≠ p.marker) :
    unescStep p ⟨false, false⟩ b = { next := ⟨false, false⟩, out := some b, desync := false } := by
  simp [unescStep, h]

/-- A step without desync puts its byte, if any, before what the rest gives. -/
theorem unescapeFrom_cons_of_no_desync {u v : UnescState} {o : Option Byte}
    (h : unescStep p u b = { next := v, out := o, desync := false }) (es : List Byte) :
    unescapeFrom p u (b :: es) = (o.toList ++ (unescapeFrom p v es).1, (unescapeFrom p v es).2) := by
  simp [unescapeFrom, h, desyncCount]

end Unescape

/-- The bytes put out for one later byte are read back as that byte. A pair's second byte is no DELIM (00_scope R8 (c)) and masking it
again gives the byte; a byte that is not reserved is no marker (00_scope R8 (a)). -/
theorem unescapeFrom_escOut_append (p : Policy) (b : Byte) (es : List Byte) :
    unescapeFrom p ⟨false, false⟩ (escOut p false b ++ es) =
      (b :: (unescapeFrom p ⟨false, false⟩ es).1, (unescapeFrom p ⟨false, false⟩ es).2) := by
  obtain ⟨h, -⟩ | ⟨-, hb, h⟩ | ⟨-, hb, h⟩ := escOut_cases p false b
  · cases h
  · have hmask : b ^^^ p.mask ^^^ p.mask = b := by rw [BitVec.xor_assoc, BitVec.xor_self, BitVec.xor_zero]
    rw [h, List.cons_append, unescapeFrom_cons_of_no_desync (unescStep_marker p), List.cons_append,
      unescapeFrom_cons_of_no_desync (unescStep_of_pend (escaped_ne_delim p hb)), hmask]
    rfl
  · rw [h, List.cons_append,
      unescapeFrom_cons_of_no_desync (unescStep_of_ne_marker (ne_marker_of_not_reserved p hb))]
    rfl

theorem unescapeFrom_flatMap_escOut (p : Policy) (bs : List Byte) :
    unescapeFrom p ⟨false, false⟩ (bs.flatMap (escOut p false)) = (bs, 0) := by
  induction bs with
  | nil => rfl
  | cons b bs ih => rw [List.flatMap_cons, unescapeFrom_escOut_append, ih]

/-- Settles O35: byte 0 passes both ways as it is, and each later byte is read back from what it was put out as. -/
theorem unescapeInvertsEscape : Obligations.UnescapeInvertsEscape := by
  unfold Obligations.UnescapeInvertsEscape
  intro p bs
  cases bs with
  | nil => exact ⟨rfl, rfl⟩
  | cons b bs =>
    rw [escape_cons, unescape, unescapeFrom_cons_of_no_desync (unescStep_of_first p false b), unescapeFrom_flatMap_escOut]
    exact ⟨rfl, rfl⟩

/-! The standalone commands, one at a time. -/

/-- A word written as 30_encoding R63 writes it is decoded by its opcode. -/
theorem decode_opcode_or (op : Nibble) (a : Byte) : decode (op.setWidth 16 <<< 12 ||| a.setWidth 16) = decodeOp op a := by
  rw [← commandWord_eq_or, decode_commandWord]

/-- `err` after `n` reported desyncs (60_exceptions R121). -/
def errAfter (n : Nat) (err : BitVec 4) : BitVec 4 := if n = 0 then err else err ||| 0b0010#4

theorem errAfter_add (m n : Nat) (err : BitVec 4) : errAfter n (errAfter m err) = errAfter (m + n) err := by
  cases m <;> cases n <;> simp [errAfter, BitVec.or_assoc]

/-- The standalone unescaper's report, made or not, shows in `err` alone: it has no record (60_exceptions R121). -/
theorem reportIf_escapeDesyncX (c : Bool) (s : State) :
    reportIf c .escapeDesyncX s = { s with err := errAfter (desyncCount c) s.err } := by
  cases c with
  | false => rfl
  | true => simp [reportIf, report, emit, Report.records, Report.flag, setFlag, ErrFlag.bit, errAfter, desyncCount]

theorem exec_escb (d : Byte) (s : State) :
    exec (.escb d) s = .next { s with
      xeFirst := false
      out := s.out ++ (escOut Config.policy s.xeFirst d).map .xout ++ [okResp] } := rfl

theorem exec_unescb {d : Byte} {s : State} {r : UnescResult} (h : unescStep Config.policy s.xu d = r) :
    exec (.unescb d) s = .next { s with
      xu := r.next
      err := errAfter (desyncCount r.desync) s.err
      out := s.out ++ r.out.toList.map .xout ++ [resp (desyncStatus r.desync)] } := by
  rw [exec, execUnescb, h, reportIf_escapeDesyncX]
  rfl

theorem exec_unescend (s : State) :
    exec .unescend s = .next { s with
      xu := unescEndState
      err := errAfter (desyncCount s.xu.pend) s.err
      out := s.out ++ [resp (desyncStatus s.xu.pend)] } := by
  rw [exec, execUnescend, unescEnd, reportIf_escapeDesyncX]
  rfl

/-- Settles O31: the three cases of `escOut_cases` for the default policy. -/
theorem escbEscapesOneByte : Obligations.EscbEscapesOneByte := by
  unfold Obligations.EscbEscapesOneByte
  refine fun d s => ⟨decode_opcode_or 0x8#4 d, ?_⟩
  rw [exec_escb]
  obtain ⟨hf, h⟩ | ⟨hf, hd, h⟩ | ⟨hf, hd, h⟩ := escOut_cases Config.policy s.xeFirst d
  · have hnot : s.xeFirst ≠ false := Bool.ne_false_iff.2 hf
    rw [h, if_neg (hnot ·.1)]
    rfl
  · rw [h, if_pos ⟨hf, hd⟩]
    rfl
  · rw [h, if_neg (hd ·.2)]
    rfl

/-- Settles O32: the command's word is a literal, and its one case is the definition. -/
theorem escendRearmsTheFirstByte : Obligations.EscendRearmsTheFirstByte := by
  unfold Obligations.EscendRearmsTheFirstByte
  exact fun s => ⟨rfl, rfl⟩

/-- Settles O33: the five cases of `unescStep_cases` for the default policy. -/
theorem unescbUnescapesOneByte : Obligations.UnescbUnescapesOneByte := by
  unfold Obligations.UnescbUnescapesOneByte
  refine fun d s => ⟨decode_opcode_or 0xA#4 d, ?_⟩
  obtain ⟨hf, h⟩ | ⟨hf, hp, rfl, h⟩ | ⟨hf, hp, hd, h⟩ | ⟨hf, hp, rfl, h⟩ | ⟨hf, hp, hd, h⟩ :=
    unescStep_cases Config.policy s.xu d
  · have hnot : s.xu.first ≠ false := Bool.ne_false_iff.2 hf
    rw [exec_unescb h, if_neg (hnot ·.1), if_neg (hnot ·.1), if_neg (hnot ·.1), List.append_assoc]
    rfl
  · rw [exec_unescb h, if_pos ⟨hf, hp, rfl⟩, List.append_assoc]
    rfl
  · rw [exec_unescb h, if_neg (hd ·.2.2), if_pos ⟨hf, hp⟩, List.append_assoc]
    rfl
  · have hnot : s.xu.pend ≠ true := Bool.eq_false_iff.1 hp
    rw [exec_unescb h, if_neg (hnot ·.2.1), if_neg (hnot ·.2), if_pos ⟨hf, rfl⟩, List.append_assoc]
    rfl
  · have hnot : s.xu.pend ≠ true := Bool.eq_false_iff.1 hp
    rw [exec_unescb h, if_neg (hnot ·.2.1), if_neg (hnot ·.2), if_neg (hd ·.2), List.append_assoc]
    rfl

/-- Settles O34: the two values of the pending flag. -/
theorem unescendReportsThePendingMarker : Obligations.UnescendReportsThePendingMarker := by
  unfold Obligations.UnescendReportsThePendingMarker
  refine fun s => ⟨rfl, ?_⟩
  rw [exec_unescend]
  cases s.xu.pend with
  | false => rfl
  | true => rfl

/-! Runs of the standalone commands. -/

/-- A run of ESCB and ESCEND from any first-byte flag. -/
theorem runInstrs_escape (bs : List Byte) (s : State) :
    ∃ t, runInstrs (Pseudo.escape bs).expand s = .next t ∧
      t.xout = s.xout ++ escapeFrom Config.policy s.xeFirst bs ∧ t.xeFirst = true ∧ t.err = s.err := by
  induction bs generalizing s with
  | nil => exact ⟨_, rfl, by simp [escapeFrom, State.xout, xoutOf], rfl, rfl⟩
  | cons b bs ih =>
    obtain ⟨t, hrun, hxout, hfirst, herr⟩ := ih _
    refine ⟨t, (runInstrs_cons (exec_escb b s)).trans hrun, ?_, hfirst, herr⟩
    rw [hxout]
    simp [State.xout, xoutOf, okResp, escapeFrom, escByte]

/-- A run of UNESCB and UNESCEND from any flags of the unescaper. -/
theorem runInstrs_unescape (bs : List Byte) (s : State) :
    ∃ t, runInstrs (Pseudo.unescape bs).expand s = .next t ∧
      t.xout = s.xout ++ (unescapeFrom Config.policy s.xu bs).1 ∧ t.xu = unescEndState ∧
      t.err = errAfter (unescapeFrom Config.policy s.xu bs).2 s.err := by
  induction bs generalizing s with
  | nil =>
    refine ⟨_, runInstrs_cons (exec_unescend s), ?_, rfl, rfl⟩
    simp [unescapeFrom, State.xout, xoutOf, resp]
  | cons b bs ih =>
    obtain ⟨t, hrun, hxout, hxu, herr⟩ := ih _
    refine ⟨t, (runInstrs_cons (exec_unescb rfl)).trans hrun, ?_, hxu, herr.trans (errAfter_add _ _ _)⟩
    rw [hxout]
    simp [State.xout, xoutOf, resp, unescapeFrom]

/-- Settles O37: the two runs at the start of a sequence, where the flags are those `Escape` and `Unescape` start from. -/
theorem standaloneRunsComputeTheTransforms : Obligations.StandaloneRunsComputeTheTransforms := by
  unfold Obligations.StandaloneRunsComputeTheTransforms
  refine fun bs s => ⟨fun hfirst => ?escape, fun hfirst hpend => ?unescape⟩
  case escape =>
    have hrun := runInstrs_escape bs s
    rwa [hfirst] at hrun
  case unescape =>
    have hxu : s.xu = { first := true, pend := false } := by rw [← hfirst, ← hpend]
    have hrun := runInstrs_unescape bs s
    rwa [hxu] at hrun

end Sys2Proof.Proofs
end

section
/-! The inbound pipeline (spec/44_manager.md): the validator (R106), one RX command at a time (R108–R110), and whole runs of
RXB (R111, R112). -/

open Sys2Proof Sys2Proof.Machine Sys2Proof.Claims

namespace Sys2Proof.Proofs

/-! The validator. -/

/-- Settles O20: `valid_iff` reads only the bytesum's remainder modulo 256, and one byte makes up 0xFF with it. -/
theorem oneChecksumIsValid : Obligations.OneChecksumIsValid := by
  unfold Obligations.OneChecksumIsValid
  refine ⟨fun sum c => ?unique, fun a b c hab => ?lowByte⟩
  case unique =>
    have hlow : (sum.extractLsb' 0 8).toNat = sum.toNat % 256 := by simp [BitVec.extractLsb'_toNat]
    rw [valid_iff, ← BitVec.toNat_inj, BitVec.toNat_sub, hlow, BitVec.toNat_ofNat]
    omega
  case lowByte => rw [Bool.eq_iff_iff, valid_iff, valid_iff, hab]

/-! One RX command. -/

theorem unescState_eq {u : UnescState} {first pend : Bool} (hf : u.first = first) (hp : u.pend = pend) : u = ⟨first, pend⟩ := by
  rw [← hf, ← hp]

/-- A first byte, and a byte that is no marker while none is pending, passes as it is (43_escape R96). -/
theorem unescStep_passes {p : Policy} {u : UnescState} {b : Byte} (h : u.first = true ∨ (u.pend = false ∧ b ≠ p.marker)) :
    unescStep p u b = { next := ⟨false, false⟩, out := some b, desync := false } := by
  obtain ⟨_ | _, pend⟩ := u
  · obtain ⟨rfl, hb⟩ : pend = false ∧ b ≠ p.marker := by simpa using h
    exact unescStep_of_ne_marker hb
  · exact unescStep_of_first p pend b

section Rxb

variable {d : Byte} {s : State} {u : UnescState}

/-- A byte passed on without desync does what DFEED does with it (44_manager R108). -/
theorem exec_rxb_of_passed {e : Byte} (h : unescStep Config.policy s.rxu d = { next := u, out := some e, desync := false }) :
    exec (.rxb d) s = exec (.dfeed e) { s with rxu := u } := by
  rw [exec, execRxb, h]
  rfl

/-- A byte held back shows in the flags and the response alone. -/
theorem exec_rxb_of_held (h : unescStep Config.policy s.rxu d = { next := u, out := none, desync := false }) :
    exec (.rxb d) s = .next { s with rxu := u, out := s.out ++ [okResp] } := by
  rw [exec, execRxb, h]
  rfl

/-- A desync is reported before its byte goes to the decoder (60_exceptions R123). -/
theorem exec_rxb_of_desync {e : Byte} (h : unescStep Config.policy s.rxu d = { next := u, out := some e, desync := true }) :
    exec (.rxb d) s =
      .next (respond .escapeDesync 0#24 (feedDecoder e (report .escapeDesyncRx { s with rxu := u }))) := by
  rw [exec, execRxb, h]
  rfl

end Rxb

/-- The RX path's desync report (60_exceptions R121). -/
theorem report_escapeDesyncRx (s : State) :
    report .escapeDesyncRx s = { s with err := s.err ||| 0b0010#4, out := s.out ++ [.rxev .desync] } := rfl

/-- Settles O16: the cases of the unescaper's step, each with what the decoder is then fed. -/
theorem rxbUnescapesThenDecodes : Obligations.RxbUnescapesThenDecodes := by
  unfold Obligations.RxbUnescapesThenDecodes
  intro d s
  refine ⟨decode_opcode_or 0x1#4 d, ?passed, ?unmasked, ?marker, ?desync⟩
  case passed => exact fun h => ⟨_, exec_rxb_of_passed (unescStep_passes h), rfl⟩
  case unmasked =>
    intro hf hp hd
    exact ⟨_, exec_rxb_of_passed (unescState_eq hf hp ▸ unescStep_of_pend hd), rfl⟩
  case marker =>
    rintro hf hp rfl
    exact exec_rxb_of_held (unescState_eq hf hp ▸ unescStep_marker _)
  case desync =>
    rintro hf hp rfl
    have hstep : unescStep Config.policy s.rxu 0x7E#8 = { next := ⟨false, false⟩, out := some 0x7E#8, desync := true } := by
      rw [unescState_eq hf hp]
      rfl
    refine ⟨_, exec_rxb_of_desync hstep, ?_⟩
    rw [report_escapeDesyncRx]
    rfl

/-- Settles O18: the two values of the pending flag. -/
theorem rxendReportsThePendingMarker : Obligations.RxendReportsThePendingMarker := by
  unfold Obligations.RxendReportsThePendingMarker
  refine fun s => ⟨rfl, ?_⟩
  rw [exec, execRxend, unescEnd]
  cases s.rxu.pend with
  | false => rfl
  | true => simp [reportIf, report_escapeDesyncRx, respond, emit, desyncStatus, resp, unescEndState]

/-- Settles O19: the command's word is a literal, and its one case is the definition. -/
theorem rxrstDiscardsPartialState : Obligations.RxrstDiscardsPartialState := by
  unfold Obligations.RxrstDiscardsPartialState
  exact fun s => ⟨rfl, rfl⟩

/-! Runs of RXB over escaped bytes. -/

theorem runInstrs_append {is : List Instr} {s t : State} (h : runInstrs is s = .next t) (js : List Instr) :
    runInstrs (is ++ js) s = runInstrs js t := by
  induction is generalizing s with
  | nil =>
    cases h
    rfl
  | cons i is ih =>
    rw [runInstrs] at h
    split at h
    · next hi => exact (runInstrs_cons hi).trans (ih h)
    · cases h
    · cases h

theorem runInstrs_singleton (i : Instr) (s : State) : runInstrs [i] s = exec i s := by
  rw [runInstrs]
  cases exec i s <;> rfl

theorem escOut_length_sub_one_add_one (p : Policy) (b : Byte) :
    (escOut p false b).length - 1 + 1 = (escOut p false b).length := by
  rw [escOut_length]
  omega

/-- The bytes put out for one byte do what DFEED does with that byte, after an OK for a marker (44_manager R108). -/
theorem runInstrs_rxb_escOut {s : State} (hu : s.rxu = ⟨false, false⟩) (b : Byte) :
    runInstrs ((escOut Config.policy false b).map .rxb) s =
      exec (.dfeed b) { s with out := s.out ++ List.replicate ((escOut Config.policy false b).length - 1) okResp } := by
  obtain ⟨h, -⟩ | ⟨-, hb, h⟩ | ⟨-, hb, h⟩ := escOut_cases Config.policy false b
  · cases h
  · have hmask : b ^^^ Config.policy.mask ^^^ Config.policy.mask = b := by
      rw [BitVec.xor_assoc, BitVec.xor_self, BitVec.xor_zero]
    have hmarker := exec_rxb_of_held (hu ▸ unescStep_marker Config.policy)
    rw [h, List.map_cons, runInstrs_cons hmarker, List.map_singleton, runInstrs_singleton,
      exec_rxb_of_passed (unescStep_of_pend (escaped_ne_delim _ hb)), hmask, ← hu]
    rfl
  · have hpass := unescStep_of_ne_marker (ne_marker_of_not_reserved Config.policy hb)
    rw [h, List.map_singleton, runInstrs_singleton, exec_rxb_of_passed (hu ▸ hpass)]
    simp

theorem decFeedAll_cons_eq_nil {d e : DecState} {b : Byte} {bs : List Byte} (h : decFeedAll d (b :: bs) = (e, [])) :
    ∃ d', decFeed d b = (d', none) ∧ decFeedAll d' bs = (e, []) := by
  obtain ⟨d', f, hb⟩ : ∃ d' f, decFeed d b = (d', f) := ⟨_, _, rfl⟩
  simp only [decFeedAll, hb, Prod.mk.injEq, List.append_eq_nil_iff, Option.toList_eq_nil_iff] at h
  obtain ⟨he, rfl, hbs⟩ := h
  exact ⟨d', hb, Prod.ext he hbs⟩

/-- Bytes that complete no frame, escaped: the decoder takes them, and every RXB answers OK. -/
theorem runInstrs_rxb_of_no_frame {s : State} {e : DecState} {bs : List Byte} (hu : s.rxu = ⟨false, false⟩)
    (hd : decFeedAll s.dec bs = (e, [])) :
    runInstrs ((bs.flatMap (escOut Config.policy false)).map .rxb) s = .next { s with
      dec := e
      out := s.out ++ List.replicate (bs.flatMap (escOut Config.policy false)).length okResp } := by
  induction bs generalizing s with
  | nil =>
    cases hd
    simp [runInstrs]
  | cons b bs ih =>
    obtain ⟨d, hb, hbs⟩ := decFeedAll_cons_eq_nil hd
    have hfirst := (runInstrs_rxb_escOut hu b).trans (exec_dfeed_of_no_frame hb)
    rw [List.flatMap_cons, List.map_append, runInstrs_append hfirst, ih]
    case hu => exact hu
    case hd => exact hbs
    have hcount : List.replicate (escOut Config.policy false b).length okResp =
        List.replicate ((escOut Config.policy false b).length - 1) okResp ++ [okResp] := by
      rw [← List.replicate_succ', escOut_length_sub_one_add_one]
    rw [List.length_append, List.replicate_add, hcount]
    simp

/-! A whole frame. -/

/-- The frame record a payload is received as (44_manager R111). -/
def sentFrame (payload : List Byte) : Frame :=
  { length := BitVec.ofNat 16 payload.length, contents := payload, bytesum := BitVec.ofNat 24 (byteSum payload),
    checksum := csumGen payload }

theorem sentFrame_valid (payload : List Byte) : valid (sentFrame payload).bytesum (sentFrame payload).checksum = true := by
  obtain ⟨-, hvalid⟩ := generatedChecksumIsTheOneAccepted payload
  exact (hvalid _).2 rfl

/-- The bytes of a frame between DELIM and the checksum (42_encoder R88). -/
def frameBody (payload : List Byte) : List Byte := bigEndian16 (BitVec.ofNat 16 payload.length) ++ payload

theorem encodeFrame_eq_body (payload : List Byte) :
    encodeFrame payload = 0x7E#8 :: frameBody payload ++ [csumGen payload] := rfl

theorem wireFrame_eq_body (payload : List Byte) :
    wireFrame payload = 0x7E#8 :: ((frameBody payload).flatMap (escOut Config.policy false) ++
      escOut Config.policy false (csumGen payload)) := by
  rw [wireFrame_eq_cons, encodeFrame_eq_body, List.cons_append, List.tail_cons, List.flatMap_append, List.flatMap_singleton]

theorem rxevOf_replicate_okResp (n : Nat) : rxevOf (List.replicate n okResp) = [] := by
  induction n with
  | zero => rfl
  | succ n ih => exact ih

section Frame

variable {payload : List Byte}

/-- After all of a frame but its checksum, the checksum is due (41_decoder R76–R79). -/
theorem decFeedAll_frameBody {d : DecState} (hm : d.mode = .seekingDelimiter) (hn : payload.length ≤ 65535) :
    decFeedAll d (0x7E#8 :: frameBody payload) =
      (collecting (BitVec.ofNat 16 payload.length) 0#16 (BitVec.ofNat 24 (byteSum payload)) payload, []) := by
  have hdue : payload.length = (BitVec.ofNat 16 payload.length).toNat := by rw [BitVec.toNat_ofNat]; omega
  refine (decFeedAll_header hm _ _ payload).trans ?_
  rw [bytes_append16, decFeedAll_collecting hdue, BitVec.zero_add, List.nil_append]

/-- The checksum byte then completes the frame (41_decoder R80). -/
theorem decFeed_checksum_of_body (payload : List Byte) :
    decFeed (collecting (BitVec.ofNat 16 payload.length) 0#16 (BitVec.ofNat 24 (byteSum payload)) payload) (csumGen payload) =
      (decReset, some (sentFrame payload)) := rfl

theorem decFeedAll_encodeFrame {d : DecState} (hm : d.mode = .seekingDelimiter) (hn : payload.length ≤ 65535) :
    decFeedAll d (encodeFrame payload) = (decReset, [sentFrame payload]) := by
  rw [encodeFrame_eq_body, decFeedAll_append, decFeedAll_frameBody hm hn]
  rfl

/-- The record has the payload's own length and its exact sum, which 24 bits hold (44_manager R111, 10_state R19). -/
theorem sentFrame_exact (hn : payload.length ≤ 65535) :
    (sentFrame payload).length.toNat = payload.length ∧ (sentFrame payload).bytesum.toNat = byteSum payload := by
  have hsum := byteSum_le payload
  simp only [sentFrame, BitVec.toNat_ofNat]
  omega

/-- RXB of the frame on the wire: DELIM is no marker and passes raw, the bytes between yield nothing, the checksum yields the
frame, and the validator accepts it (44_manager R111). -/
theorem runInstrs_rxb_wireFrame {s : State} (hn : payload.length ≤ 65535) (hm : s.dec.mode = .seekingDelimiter)
    (hp : s.rxu.pend = false) :
    runInstrs ((wireFrame payload).map .rxb) s = .next { s with
      dec := decReset
      rxu := ⟨false, false⟩
      out := s.out ++ List.replicate ((wireFrame payload).length - 1) okResp ++ [.rxev (.accept payload), okResp] } := by
  obtain ⟨d, hdelim, hbody⟩ := decFeedAll_cons_eq_nil (decFeedAll_frameBody hm hn)
  have hfirst : exec (.rxb 0x7E#8) s = .next { s with dec := d, rxu := ⟨false, false⟩, out := s.out ++ [okResp] } :=
    (exec_rxb_of_passed (unescStep_passes (.inr ⟨hp, by decide⟩))).trans (exec_dfeed_of_no_frame hdelim)
  rw [wireFrame_eq_body, List.map_cons, runInstrs_cons hfirst, List.map_append,
    runInstrs_append (runInstrs_rxb_of_no_frame rfl hbody), runInstrs_rxb_escOut rfl,
    exec_dfeed_of_frame (decFeed_checksum_of_body payload), complete, if_pos (sentFrame_valid payload)]
  have hcount (a : Nat) : List.replicate (a + (escOut Config.policy false (csumGen payload)).length) okResp =
      okResp :: (List.replicate a okResp ++ List.replicate ((escOut Config.policy false (csumGen payload)).length - 1) okResp) := by
    rw [← List.replicate_add, ← List.replicate_succ, Nat.add_assoc, escOut_length_sub_one_add_one]
  rw [List.length_cons, Nat.add_sub_cancel, List.length_append, hcount]
  simp [respond, emit, okResp, sentFrame]

/-- What a consumer of RXEV sees of it. -/
theorem runInstrs_rxb_wireFrame_rxev {s : State} (hn : payload.length ≤ 65535) (hm : s.dec.mode = .seekingDelimiter)
    (hp : s.rxu.pend = false) :
    ∃ u recs, runInstrs ((wireFrame payload).map .rxb) s = .next u ∧ u.out = s.out ++ recs ∧ rxevOf recs = [.accept payload] ∧
      u.dec = decReset ∧ u.rxu.pend = false ∧ u.err = s.err := by
  refine ⟨_, _, runInstrs_rxb_wireFrame hn hm hp, List.append_assoc .., ?_, rfl, rfl, rfl⟩
  rw [rxevOf_append, rxevOf_replicate_okResp]
  rfl

end Frame

/-! From TXSEND to RXB. -/

theorem txRecords_data (bs : List Byte) : (txRecords bs).map (fun t => t.data) = bs := by
  induction bs with
  | nil => rfl
  | cons b bs ih =>
    cases bs with
    | nil => rfl
    | cons c cs => rw [txRecords, List.map_cons, ih]

/-- TXSEND puts the payload's frame on the wire and leaves the RX path and `err` alone (42_encoder R91, 20_memory R54). -/
theorem exec_txsend_wireFrame {s : State} (hp : s.tx.poison = false) :
    ∃ t, exec .txsend s = .next t ∧ (txoutOf (t.out.drop s.out.length)).map (fun b => b.data) = wireFrame s.tx.buf ∧
      t.dec = s.dec ∧ t.rxu = s.rxu ∧ t.err = s.err := by
  obtain ⟨hpoison, -⟩ | ⟨-, e⟩ := execTxsend_cases s
  · cases hp.symm.trans hpoison
  · refine ⟨_, e, ?_, rfl, rfl, rfl⟩
    simp [txoutOf, txRecords_data, wireFrame]

/-- Settles O21: the run is `runInstrs_rxb_wireFrame`; unescaping the bytes gives the frame back, which the decoder yields. -/
theorem roundTripDeliversThePayload : Obligations.RoundTripDeliversThePayload := by
  unfold Obligations.RoundTripDeliversThePayload
  intro payload s hn hm hp
  refine ⟨runInstrs_rxb_wireFrame hn hm hp, ⟨sentFrame payload, ?yielded, ?fields⟩, ?sent⟩
  case yielded =>
    obtain ⟨hback, -⟩ := unescapeInvertsEscape Config.policy (encodeFrame payload)
    rw [wireFrame, hback, decFeedAll_encodeFrame hm hn]
  case fields =>
    obtain ⟨hlength, hsum⟩ := sentFrame_exact hn
    exact ⟨hlength, rfl, hsum, csumGen_toNat payload⟩
  case sent =>
    rintro hpoison rfl
    obtain ⟨t, hsend, hbytes, -⟩ := exec_txsend_wireFrame hpoison
    exact ⟨t, hsend, hbytes⟩

/-- Settles O22: TXSEND's bytes are the frame of the buffer, which the invariant keeps within a frame's length. -/
theorem loopbackDeliversTheSentPayload : Obligations.LoopbackDeliversTheSentPayload := by
  unfold Obligations.LoopbackDeliversTheSentPayload
  rintro s ⟨-, -, -, hcap, -⟩ hpoison hm hp
  obtain ⟨t, hsend, hbytes, hdec, hrxu, herr⟩ := exec_txsend_wireFrame hpoison
  obtain ⟨u, recs, hrun, hout, hrecs, hreset, hpend, herr'⟩ :=
    runInstrs_rxb_wireFrame_rxev (s := t) hcap (hdec ▸ hm) (hrxu ▸ hp)
  rw [← hbytes, List.map_map] at hrun
  refine ⟨t, u, hsend, hrun, ?_, herr'.trans herr, hreset ▸ rfl, hpend⟩
  rw [hout, List.drop_left, hrecs]

/-! Noise around a frame. -/

/-- Noise between frames: each byte passes the unescaper as it is and the decoder discards it (44_manager R112). -/
theorem runInstrs_rxb_noise {s : State} {noise : List Byte} (hm : s.dec.mode = .seekingDelimiter) (hp : s.rxu.pend = false)
    (h : ∀ b ∈ noise, b ≠ 0x7E#8 ∧ b ≠ 0x7D#8) :
    ∃ t, runInstrs (noise.map .rxb) s = .next t ∧ t.dec = s.dec ∧ t.rxu.pend = false ∧ t.rxev = s.rxev := by
  induction noise generalizing s with
  | nil => exact ⟨s, rfl, rfl, hp, rfl⟩
  | cons b bs ih =>
    obtain ⟨⟨hdelim, hmarker⟩, hbs⟩ := List.forall_mem_cons.1 h
    have hb : decFeed s.dec b = (s.dec, none) := by rw [decFeed_seeking hm, feedSeeking_of_ne_delim hdelim]
    have hfirst := (exec_rxb_of_passed (unescStep_passes (.inr ⟨hp, hmarker⟩))).trans (exec_dfeed_of_no_frame hb)
    obtain ⟨t, hrun, hdec, hpend, hrxev⟩ := ih (s := { s with rxu := ⟨false, false⟩, out := s.out ++ [okResp] }) hm rfl hbs
    refine ⟨t, (runInstrs_cons hfirst).trans hrun, hdec, hpend, hrxev.trans ?_⟩
    simp [State.rxev, rxevOf, okResp]

/-- Settles O23: noise, the frame, noise, each run from what the one before leaves. -/
theorem noiseAroundAFrameIsIgnored : Obligations.NoiseAroundAFrameIsIgnored := by
  unfold Obligations.NoiseAroundAFrameIsIgnored
  intro payload before after hn hnoise
  obtain ⟨hbefore, hafter⟩ := List.forall_mem_append.1 hnoise
  obtain ⟨t, hrun, hdec, hpend, hrxev⟩ := runInstrs_rxb_noise (s := State.reset) rfl rfl hbefore
  obtain ⟨u, recs, hframe, hout, hrecs, hreset, hpend', -⟩ := runInstrs_rxb_wireFrame_rxev (s := t) hn (hdec ▸ rfl) hpend
  obtain ⟨v, hrun', -, -, hrxev'⟩ := runInstrs_rxb_noise (s := u) (hreset ▸ rfl) hpend' hafter
  refine ⟨v, ?run, ?rxev⟩
  case run => rw [List.map_append, List.map_append, List.append_assoc, runInstrs_append hrun, runInstrs_append hframe, hrun']
  case rxev =>
    calc v.rxev = u.rxev := hrxev'
      _ = t.rxev ++ rxevOf recs := by rw [State.rxev, hout, rxevOf_append, ← State.rxev]
      _ = [.accept payload] := by rw [hrxev, hrecs]; rfl

end Sys2Proof.Proofs
end

section
/-! The step on a word, legal or illegal, and the control commands RDREG, ERRCLR and SRST (spec/45_control.md). -/

open Sys2Proof Sys2Proof.Machine Sys2Proof.Claims

namespace Sys2Proof.Proofs

/-! The step on a word (45_control R117, R118). -/

theorem stepWord_of_decode {w : CmdWord} {i : Instr} (h : decode w = .ok i) (s : State) : stepWord w s = exec i s := by
  rw [stepWord, h]

/-- Settles O5: the word at the head is the one taken, and it decodes to the command. -/
theorem stepRunsTheDecodedCommand : Obligations.StepRunsTheDecodedCommand := by
  unfold Obligations.StepRunsTheDecodedCommand
  exact fun s w rest i hin hi => (step_of_input hin).trans (stepWord_of_decode hi _)

/-- Settles O6: the word at the head is the one taken, and O4 says what an illegal one does. -/
theorem stepOnIllegalWordSetsIllegalOnly : Obligations.StepOnIllegalWordSetsIllegalOnly := by
  unfold Obligations.StepOnIllegalWordSetsIllegalOnly
  intro s w rest hin hill
  obtain ⟨hstep, -⟩ := illegalWordsAreExactlyTheReservedOnes w
  exact (step_of_input hin).trans (hstep hill _)

/-! What RDREG reads (10_state R37, R38). -/

theorem code_eq_modeNumber (m : DecMode) : m.code = modeNumber m := by
  cases m <;> rfl

theorem bitAt_toNat {k : Nat} (hk : k < 24) (b : Bool) : (bitAt k b).toNat = b.toNat <<< k := by
  have hlt : b.toNat <<< k < 2 ^ 24 := by
    calc b.toNat <<< k < 2 ^ (1 + k) := Nat.shiftLeft_lt b.toNat_lt
      _ ≤ 2 ^ 24 := Nat.pow_le_pow_right (by decide) (by omega)
  rw [bitAt, BitVec.toNat_shiftLeft, BitVec.toNat_setWidth_of_le (by decide), BitVec.toNat_ofBool, Nat.mod_eq_of_lt hlt]

/-- Each field of STATUS shifts those above it, which adds up to the places of 10_state R37. -/
theorem statusFields_toNat (s : State) :
    (statusFields s).toNat = s.tx.poison.toNat <<< 8 ||| s.xeFirst.toNat <<< 7 ||| s.xu.first.toNat <<< 6 |||
      s.xu.pend.toNat <<< 5 ||| s.rxu.first.toNat <<< 4 ||| s.rxu.pend.toNat <<< 3 ||| (modeNumber s.dec.mode).toNat := by
  rw [statusFields]
  -- `rw` and not `simp`, which does not see the width 24 as the sum of the fields' widths
  repeat rw [BitVec.toNat_append]
  simp [Nat.shiftLeft_or_distrib, ← Nat.shiftLeft_add]

/-- The flags that the machine places one by one are the fields side by side. -/
theorem statusWord_eq_statusFields (s : State) : statusWord s = statusFields s := by
  apply BitVec.eq_of_toNat_eq
  simp (disch := decide) only [statusWord, BitVec.toNat_or, bitAt_toNat, BitVec.toNat_setWidth_of_le, code_eq_modeNumber,
    statusFields_toNat]

/-- A register narrower than 24 bits reads with zeros above it (10_state R37). -/
theorem setWidth_eq_zero_append (m : Nat) {n : Nat} (x : BitVec n) : x.setWidth (m + n) = 0#m ++ x := by
  apply BitVec.eq_of_toNat_eq
  rw [BitVec.toNat_setWidth_of_le (Nat.le_add_left n m), BitVec.toNat_append, BitVec.toNat_ofNat]
  simp

theorem exec_rdreg {r : Byte} {g : Reg} {v : Word24} {s : State} (hr : Reg.ofNumber r = some g) (hv : readReg g s = v) :
    exec (.rdreg r) s = .next { s with out := s.out ++ [.resp { status := .ok, value := v }] } := by
  rw [exec, execRdreg, hr, ← hv]
  rfl

/-- Settles O38: `exec_rdreg` for the register of each number; a poisoned payload fills its buffer (10_state R26). -/
theorem rdregReadsEachRegister : Obligations.RdregReadsEachRegister := by
  unfold Obligations.RdregReadsEachRegister
  refine ⟨?word, rfl, fun s => ⟨?status, ?dlen, ?dremain, ?dsum, ?txcount, ?err, ?poison⟩⟩
  case word => exact fun r hr => (decode_opcode_or 0xC#4 r).trans (if_pos hr)
  case status => exact exec_rdreg rfl (statusWord_eq_statusFields s)
  case dlen => exact exec_rdreg rfl (setWidth_eq_zero_append 8 s.dec.len)
  case dremain => exact exec_rdreg rfl (setWidth_eq_zero_append 8 s.dec.remain)
  case dsum => exact exec_rdreg rfl rfl
  case txcount => exact exec_rdreg rfl rfl
  case err => exact exec_rdreg rfl (setWidth_eq_zero_append 20 s.err)
  case poison =>
    rintro ⟨-, hfull⟩ hp
    rw [hfull hp, Config.txBufCap]

/-! What ERRCLR and SRST write (R115, R116). -/

/-- Settles O40: the word is the one `encode` gives, and `clearFlags_getLsbD` says which bits are left. -/
theorem errclrClearsTheSelectedFlags : Obligations.ErrclrClearsTheSelectedFlags := by
  unfold Obligations.ErrclrClearsTheSelectedFlags
  refine fun m s => ⟨?word, clearFlags m s.err, rfl, fun k => clearFlags_getLsbD m s.err⟩
  have hword : 0xD000#16 ||| m.setWidth 16 = encode (.errclr m) := by
    rw [encode, commandWord_eq_or, BitVec.setWidth_setWidth (by decide)]
    rfl
  rw [hword]
  exact decodeOfEncodeIsIdentity (.errclr m) rfl

/-- Settles O41: the word is a literal, and `resetState` writes each element as `State.reset` has it. -/
theorem srstResetsEveryElement : Obligations.SrstResetsEveryElement := by
  unfold Obligations.SrstResetsEveryElement
  exact fun s => ⟨rfl, rfl⟩

end Sys2Proof.Proofs
end

section
/-! What a command reports (spec/60_exceptions.md R119, R121): the flags it raises against its records and its status, and where a
DESYNC record comes from; then the order of one command's outputs (R123). -/

open Sys2Proof Sys2Proof.Machine Sys2Proof.Claims

namespace Sys2Proof.Proofs

theorem hasFlag_setFlag (f g : ErrFlag) (err : BitVec 4) : hasFlag f (setFlag g err) = (hasFlag f err || decide (f = g)) := by
  have hbit : f.bit = g.bit ↔ f = g := by cases f <;> cases g <;> decide
  simp only [hasFlag, setFlag_getLsbD, hbit]

@[simp] theorem hasMismatch_append (a b : List Output) : hasMismatch (a ++ b) = (hasMismatch a || hasMismatch b) := by
  simp [hasMismatch]

@[simp] theorem hasDesync_append (a b : List Output) : hasDesync (a ++ b) = (hasDesync a || hasDesync b) := by
  simp [hasDesync]

/-! Records and status account for the flags. -/

/-- The flags that a command's records and status stand for (60_exceptions R119). -/
def standsFor (st : Status) (recs : List Output) : ErrFlag → Bool
  | .csum => hasMismatch recs
  | .desync => decide (st = .escapeDesync)
  | .precond => decide (st = .preconditionViolation)
  | .illegal => decide (st = .illegalCommand)

/-- From `s` to `t` records are emitted, a DESYNC among them exactly when `desync`, and of the flags exactly those are raised that
these records and the status `st` stand for. -/
def Accounted (st : Status) (desync : Bool) (s t : State) : Prop :=
  ∃ recs, t.out = s.out ++ recs ∧ hasDesync recs = desync ∧
    ∀ f, hasFlag f t.err = (hasFlag f s.err || standsFor st recs f)

namespace Accounted

variable {st : Status} {desync : Bool} {s t : State}

theorem of_eq (ho : t.out = s.out) (he : t.err = s.err) : Accounted .ok false s t := by
  refine ⟨[], by simp [ho], rfl, fun f => ?_⟩
  have hnone : standsFor .ok [] f = false := by cases f <;> rfl
  rw [he, hnone, Bool.or_false]

/-- Records that are neither DESYNC nor MISMATCH raise no flag. -/
theorem emit (h : Accounted st desync s t) {os : List Output} (hd : hasDesync os = false) (hm : hasMismatch os = false) :
    Accounted st desync s (emit os t) := by
  obtain ⟨recs, hout, hdesync, hflags⟩ := h
  refine ⟨recs ++ os, by simp [hout], by simp [hdesync, hd], fun f => ?_⟩
  have hsame : standsFor st (recs ++ os) f = standsFor st recs f := by cases f <;> simp [standsFor, hm]
  rw [emit_err, hflags, hsame]

theorem emit_of_rxevOf_nil (h : Accounted st desync s t) {os : List Output} (hos : rxevOf os = []) :
    Accounted st desync s (Machine.emit os t) :=
  h.emit (by simp [hasDesync, hos]) (by simp [hasMismatch, hos])

/-- A report is accounted for once its record and the status, which may change from `st` to `st'`, stand for its flag. -/
theorem report (h : Accounted st desync s t) {st' : Status} {r : Report}
    (hr : ∀ recs f, standsFor st' (recs ++ r.records) f = (standsFor st recs f || decide (f = r.flag))) :
    Accounted st' (hasDesync r.records || desync) s (report r t) := by
  obtain ⟨recs, hout, hdesync, hflags⟩ := h
  refine ⟨recs ++ r.records, by simp [hout], by simp [hdesync, Bool.or_comm], fun f => ?_⟩
  rw [report_err, hasFlag_setFlag, hflags, hr, Bool.or_assoc]

theorem escapeDesyncRx (h : Accounted .ok false s t) (c : Bool) :
    Accounted (desyncStatus c) c s (reportIf c .escapeDesyncRx t) := by
  cases c with
  | false => exact h
  | true =>
    exact h.report fun recs f => by
      cases f <;> simp [standsFor, Report.records, Report.flag, desyncStatus, hasMismatch, rxevOf]

/-- The standalone unescaper's report has no record (60_exceptions R121). -/
theorem escapeDesyncX (h : Accounted .ok false s t) (c : Bool) :
    Accounted (desyncStatus c) false s (reportIf c .escapeDesyncX t) := by
  cases c with
  | false => exact h
  | true => exact h.report fun recs f => by cases f <;> simp [standsFor, Report.records, Report.flag, desyncStatus]

theorem preconditionViolation (h : Accounted .ok false s t) :
    Accounted .preconditionViolation false s (Machine.report .preconditionViolation t) :=
  h.report fun recs f => by cases f <;> simp [standsFor, Report.records, Report.flag]

theorem illegalCommand (h : Accounted .ok false s t) : Accounted .illegalCommand false s (Machine.report .illegalCommand t) :=
  h.report fun recs f => by cases f <;> simp [standsFor, Report.records, Report.flag]

/-- Either verdict on a frame leaves the status as it is: a mismatch shows in its record (60_exceptions R123). -/
theorem complete (h : Accounted st desync s t) (f : Frame) : Accounted st desync s (complete f t) := by
  unfold Machine.complete
  split
  · exact h.emit rfl rfl
  · exact h.report fun recs f => by cases f <;> simp [standsFor, Report.records, Report.flag, hasMismatch, rxevOf]

theorem completeAny (h : Accounted st desync s t) (o : Option Frame) : Accounted st desync s (completeAny o t) := by
  cases o with
  | none => exact h
  | some f => exact h.complete f

theorem feedDecoder (h : Accounted st desync s t) (b : Byte) : Accounted st desync s (feedDecoder b t) :=
  have hdec : Accounted st desync s { t with dec := (decFeed t.dec b).1 } := h
  hdec.completeAny _

theorem feedDecoderAny (h : Accounted st desync s t) (o : Option Byte) : Accounted st desync s (feedDecoderAny o t) := by
  cases o with
  | none => exact h
  | some b => exact h.feedDecoder b

end Accounted

/-- RXB and RXEND, the commands that run the RX path's unescaper. -/
def RunsRxUnescaper (i : Instr) : Prop := (∃ d, i = .rxb d) ∨ i = .rxend

/-- What every command but ERRCLR and SRST reports: its records and its status account for the flags it raises, and it emits a DESYNC
record exactly when it answers ESCAPE_DESYNC as RXB or RXEND. -/
theorem exec_accounted {i : Instr} (hi : ¬ClearsFlags i) (s : State) :
    ∃ st v u desync, exec i s = .next (respond st v u) ∧ Accounted st desync s u ∧
      (desync = true ↔ st = .escapeDesync ∧ RunsRxUnescaper i) := by
  have hstart : Accounted .ok false s s := .of_eq rfl rfl
  cases i with
  | rxb d =>
    exact ⟨_, _, _, _, rfl, .feedDecoderAny (.escapeDesyncRx (.of_eq rfl rfl) _) _, by simp [desyncStatus, RunsRxUnescaper]⟩
  | rxend => exact ⟨_, _, _, _, rfl, .escapeDesyncRx (.of_eq rfl rfl) _, by simp [desyncStatus, RunsRxUnescaper]⟩
  | rxrst => exact ⟨_, _, _, _, rfl, .of_eq rfl rfl, by simp⟩
  | dfeed d => exact ⟨_, _, _, _, rfl, hstart.feedDecoder d, by simp⟩
  | txb d =>
    obtain ⟨-, h⟩ | ⟨-, h⟩ | ⟨-, -, h⟩ := execTxb_cases d s
    · exact ⟨_, _, _, _, h, hstart.preconditionViolation, by simp⟩
    · exact ⟨_, _, _, _, h, .preconditionViolation (.of_eq rfl rfl), by simp⟩
    · exact ⟨_, _, _, _, h, .of_eq rfl rfl, by simp⟩
  | txsend =>
    obtain ⟨-, h⟩ | ⟨-, h⟩ := execTxsend_cases s
    · exact ⟨_, _, _, _, h, .preconditionViolation (.of_eq rfl rfl), by simp⟩
    · exact ⟨_, _, _, _, h, .emit_of_rxevOf_nil (.of_eq rfl rfl) (rxevOf_map_txout _), by simp⟩
  | txclr => exact ⟨_, _, _, _, rfl, .of_eq rfl rfl, by simp⟩
  | escb d => exact ⟨_, _, _, _, rfl, .emit_of_rxevOf_nil (.of_eq rfl rfl) (rxevOf_map_xout _), by simp⟩
  | escend => exact ⟨_, _, _, _, rfl, .of_eq rfl rfl, by simp⟩
  | unescb d =>
    exact ⟨_, _, _, _, rfl, .emit_of_rxevOf_nil (.escapeDesyncX (.of_eq rfl rfl) _) (rxevOf_map_xout _), by simp [RunsRxUnescaper]⟩
  | unescend => exact ⟨_, _, _, _, rfl, .escapeDesyncX (.of_eq rfl rfl) _, by simp [RunsRxUnescaper]⟩
  | rdreg r =>
    obtain ⟨v, h⟩ | h := execRdreg_cases r s
    · exact ⟨_, _, _, _, h, hstart, by simp⟩
    · exact ⟨_, _, _, _, h, hstart.illegalCommand, by simp⟩
  | errclr m => exact absurd (.inl ⟨m, rfl⟩) hi
  | srst => exact absurd (.inr rfl) hi

/-- Settles O42: `exec_accounted`, flag by flag. -/
theorem flagsRecordTheReports : Obligations.FlagsRecordTheReports := by
  unfold Obligations.FlagsRecordTheReports
  intro i s hclr hsrst
  have hi : ¬ClearsFlags i := not_or.2 ⟨not_exists.2 hclr, hsrst⟩
  obtain ⟨st, v, u, _, hx, ⟨recs, hout, -, hflags⟩, -⟩ := exec_accounted hi s
  refine ⟨_, recs, ⟨st, v⟩, hx, ?_, hflags .csum, hflags .desync, hflags .precond, hflags .illegal⟩
  rw [respond_out, hout]

/-- Settles O44: `exec_accounted`; ERRCLR and SRST, like every control command, emit their response alone. -/
theorem desyncRecordOnTheRxPathOnly : Obligations.DesyncRecordOnTheRxPathOnly := by
  unfold Obligations.DesyncRecordOnTheRxPathOnly
  intro i s
  by_cases hi : ClearsFlags i
  · obtain ⟨hp, hnot⟩ : pathOf i = none ∧ ¬RunsRxUnescaper i := by
      obtain ⟨m, rfl⟩ | rfl := hi <;> simp [pathOf, RunsRxUnescaper]
    obtain ⟨st, v, u, hx, -, hout⟩ := exec_control hp s
    refine ⟨_, [], ⟨st, v⟩, hx, ?_, iff_of_false nofun fun ⟨_, hruns⟩ => hnot hruns⟩
    rw [respond_out, hout, List.append_nil]
  · obtain ⟨st, v, u, _, hx, ⟨recs, hout, rfl, -⟩, hdesync⟩ := exec_accounted hi s
    refine ⟨_, recs, ⟨st, v⟩, hx, ?_, hdesync⟩
    rw [respond_out, hout]

/-! Two reports in one command. -/

theorem unescStep_delim_of_pend (p : Policy) :
    unescStep p ⟨false, true⟩ Config.delim = { next := ⟨false, false⟩, out := some Config.delim, desync := true } := rfl

theorem complete_of_not_valid {f : Frame} (h : valid f.bytesum f.checksum ≠ true) (s : State) :
    complete f s = report (.checksumMismatch f) s := if_neg h

/-- Settles O17: the desync is reported before DELIM reaches the decoder, and there it completes a frame that `valid_iff` rejects. -/
theorem rxbDesyncPrecedesTheFrameRecord : Obligations.RxbDesyncPrecedesTheFrameRecord := by
  unfold Obligations.RxbDesyncPrecedesTheFrameRecord
  intro s hf hp hm hsum
  have hstep := unescStep_delim_of_pend Config.policy
  rw [← unescState_eq hf hp] at hstep
  have hinvalid : valid s.dec.sum Config.delim ≠ true := by
    rw [Ne, valid_iff, Config.delim, BitVec.toNat_ofNat]
    omega
  rw [← Config.delim, exec_rxb_of_desync hstep, report_escapeDesyncRx, feedDecoder, decFeed_checksum hm, completeAny,
    complete_of_not_valid hinvalid]
  simp [respond, report, emit, Report.records, Report.flag, resp, decReset, DecState.reset, setFlag, ErrFlag.bit, BitVec.or_assoc]

end Sys2Proof.Proofs
end

section
/-! What a poisoned payload allows: no command sends it, and only TXSEND, TXCLR and SRST lift the poison
(spec/70_reset_and_hazards.md R139, spec/10_state.md R26). -/

open Sys2Proof Sys2Proof.Machine Sys2Proof.Claims

namespace Sys2Proof.Proofs

/-- A command of another path leaves the TX path and TXOUT. -/
theorem exec_off_txPath {i : Instr} {p : Claims.Path} (h : pathOf i = some p) (hp : p ≠ .tx) (s : State) :
    ∃ t, exec i s = .next t ∧ t.txout = s.txout ∧ t.tx = s.tx := by
  obtain ⟨st, e, he, hexec⟩ := exec_eq_apply h s
  refine ⟨_, hexec s (putPart_self p s), ?_, ?_⟩
  · rw [respond_txout, he.txout_apply hp]
  · cases p with
    | tx => exact absurd rfl hp
    | rx | standalone => rfl

/-- Of the control commands only SRST writes the TX path. -/
theorem exec_control_tx {i : Instr} (h : pathOf i = none) (hi : i ≠ .srst) {s t : State} (ht : exec i s = .next t) :
    t.tx = s.tx := by
  cases i with
  | rdreg r =>
    obtain ⟨v, e⟩ | e := execRdreg_cases r s <;> rw [← Host.Outcome.next.inj (e.symm.trans ht)] <;> rfl
  | errclr m =>
    rw [← Host.Outcome.next.inj ht]
    rfl
  | srst => exact absurd rfl hi
  | rxb | rxend | rxrst | dfeed | txb | txsend | txclr | escb | escend | unescb | unescend => cases h

/-- TXB, TXSEND and TXCLR on a poisoned payload: TXB and TXSEND refuse it, and TXB keeps it (42_encoder R90–R92). -/
theorem exec_txPath_of_poison {i : Instr} (h : pathOf i = some .tx) {s : State} (hp : s.tx.poison = true) :
    ∃ t, exec i s = .next t ∧ t.txout = s.txout ∧ (i ≠ .txsend → i ≠ .txclr → t.tx = s.tx) := by
  cases i with
  | txb d =>
    have hx : exec (.txb d) s = .next _ := if_pos hp
    exact ⟨_, hx, execTxb_txout hx, fun _ _ => rfl⟩
  | txsend =>
    refine ⟨_, if_pos hp, ?_, fun hsend => absurd rfl hsend⟩
    simp [State.txout, txoutOf, Report.records]
  | txclr => exact ⟨_, rfl, respond_txout _ _ _, fun _ hclr => absurd rfl hclr⟩
  | rxb | rxend | rxrst | dfeed | escb | escend | unescb | unescend | rdreg | errclr | srst => cases h

/-- Settles O30: by the command's path; the TX path's commands send no poisoned payload, and no other command emits on TXOUT. -/
theorem poisonedPayloadIsNeverSent : Obligations.PoisonedPayloadIsNeverSent := by
  unfold Obligations.PoisonedPayloadIsNeverSent
  intro i s hp
  match hpath : pathOf i with
  | none =>
    obtain ⟨st, v, u, hx, -, hout⟩ := exec_control hpath s
    refine ⟨_, hx, ?_, fun _ _ hsrst => exec_control_tx hpath hsrst hx⟩
    rw [respond_txout, State.txout, hout, State.txout]
  | some .tx =>
    obtain ⟨t, hx, htxout, htx⟩ := exec_txPath_of_poison hpath hp
    exact ⟨t, hx, htxout, fun hsend hclr _ => htx hsend hclr⟩
  | some .rx | some .standalone =>
    obtain ⟨t, hx, htxout, htx⟩ := exec_off_txPath hpath nofun s
    exact ⟨t, hx, htxout, fun _ _ _ => htx⟩

end Sys2Proof.Proofs
end

section
/-! The bits of the packed words, and the shape of a record's RXEV beats (spec/30_encoding.md R68–R70; log entry 14). -/

open Sys2Proof Sys2Proof.Machine

namespace Sys2Proof.Proofs

/-! The response word and the TXOUT beat. -/

theorem responseWord_value (r : Response) : r.word.extractLsb' 0 24 = r.value := BitVec.extractLsb'_append_eq_right

theorem responseWord_code (r : Response) : r.word.extractLsb' 24 4 = r.status.code := BitVec.extractLsb'_append_eq_left

theorem txBeat_data (t : TxByte) : t.beat.extractLsb' 0 8 = t.data := BitVec.extractLsb'_append_eq_right

theorem txBeat_last (t : TxByte) : t.beat.getLsbD 8 = t.last := by
  rw [TxByte.beat, BitVec.getLsbD_append]
  simp

/-- Settles O56: each field is one part of the append that packs the word. -/
theorem responseAndTxoutWords : Obligations.ResponseAndTxoutWords := by
  unfold Obligations.ResponseAndTxoutWords
  exact ⟨fun r => ⟨responseWord_value r, responseWord_code r⟩, fun t => ⟨txBeat_data t, txBeat_last t⟩⟩

/-! The beats of an RXEV record. -/

@[simp] theorem rxBeat_last (k : BitVec 2) (l : Bool) (b : Byte) : (rxBeat k l b).getLsbD 8 = l := by
  simp only [rxBeat, BitVec.getLsbD_append]
  simp

theorem rxBeatsOf_length (k : BitVec 2) (bs : List Byte) : (rxBeatsOf k bs).length = bs.length := by
  rw [← List.length_map (f := fun b => b.extractLsb' 0 8), rxBeatsOf_data]

/-- `last` on the final beat only (30_encoding R69). -/
theorem rxBeatsOf_last (k : BitVec 2) {bs : List Byte} (h : bs ≠ []) :
    (rxBeatsOf k bs).map (·.getLsbD 8) = List.replicate (bs.length - 1) false ++ [true] := by
  induction bs with
  | nil => exact absurd rfl h
  | cons b bs ih =>
    cases bs with
    | nil => simp [rxBeatsOf]
    | cons c cs =>
      rw [rxBeatsOf, List.map_cons, rxBeat_last, ih (List.cons_ne_nil c cs)]
      rfl

theorem extractLsb'_kind_of_mem_beats {e : RxEvent} {b : BitVec 11} (h : b ∈ e.beats) : b.extractLsb' 9 2 = e.kind := by
  have hmem : b.extractLsb' 9 2 ∈ e.beats.map (·.extractLsb' 9 2) := List.mem_map_of_mem h
  rw [RxEvent.beats, rxBeatsOf_kind] at hmem
  exact List.eq_of_mem_replicate hmem

/-- The bytes of a number taken modulo 65536 are those of the number itself, read modulo 256. -/
theorem bigEndian16_ofNat (n : Nat) : bigEndian16 (BitVec.ofNat 16 n) = [BitVec.ofNat 8 (n / 256), BitVec.ofNat 8 n] := by
  have hhigh : (BitVec.ofNat 16 n).extractLsb' 8 8 = BitVec.ofNat 8 (n / 256) := by
    apply BitVec.eq_of_toNat_eq
    simp only [BitVec.extractLsb'_toNat, BitVec.toNat_ofNat, Nat.shiftRight_eq_div_pow]
    omega
  have hlow : (BitVec.ofNat 16 n).extractLsb' 0 8 = BitVec.ofNat 8 n := by
    apply BitVec.eq_of_toNat_eq
    simp only [BitVec.extractLsb'_toNat, BitVec.toNat_ofNat, Nat.shiftRight_zero]
    omega
  rw [bigEndian16, hhigh, hlow]

/-- Settles O57: a run of beats shows one kind, `last` on its final beat and its data bytes, and those of a record are
`RxEvent.data`. -/
theorem rxevBeatShape : Obligations.RxevBeatShape := by
  unfold Obligations.RxevBeatShape
  intro e
  have hlen : e.beats.length = e.data.length := rxBeatsOf_length e.kind e.data
  refine ⟨fun b hb => extractLsb'_kind_of_mem_beats hb, ?last, ?data, ?length⟩
  case last =>
    rw [hlen]
    exact rxBeatsOf_last e.kind (data_ne_nil e)
  case data =>
    refine (rxBeatsOf_data e.kind e.data).trans ?_
    cases e with
    | accept c => rw [RxEvent.data, bigEndian16_ofNat]
    | mismatch n c sum k => rw [RxEvent.data, bigEndian24, List.append_assoc _ _ [k]]; rfl
    | desync => rfl
  case length =>
    rw [hlen]
    cases e with
    | accept c => rw [RxEvent.data, List.length_append]; rfl
    | mismatch n c sum k =>
      simp only [RxEvent.data, List.length_append, bigEndian16, bigEndian24, List.length_cons, List.length_nil]
      omega
    | desync => rfl

end Sys2Proof.Proofs
end

section
/-! The step on a pulse of `rst` and with no input offered (spec/10_state.md R35, spec/70_reset_and_hazards.md R129, R130; log
entries 2 and 3). -/

open Sys2Proof Sys2Proof.Machine

namespace Sys2Proof.Proofs

theorem resetState_eq (s : State) : resetState s = { State.reset with input := s.input, out := s.out } := rfl

/-- Settles O7: the pulse is the input taken, and `resetState` keeps the words behind it and the log (log entries 1 and 4). -/
theorem stepOnRstAndOnNoInput : Obligations.StepOnRstAndOnNoInput := by
  unfold Obligations.StepOnRstAndOnNoInput
  intro s
  refine ⟨fun rest h => ?rst, step_of_no_input⟩
  case rst =>
    calc step s = .next (resetState { s with input := rest }) := step_of_input h
      _ = .next { State.reset with input := rest, out := s.out } := congrArg _ (resetState_eq _)

end Sys2Proof.Proofs
end
